-- ==== Sys2Proof/Word.lean ====
section
/-! DEFINITION. The two word types of the block: a byte, and the 16-bit register of the CRC unit
(spec 00_scope.md R10, 40_frame_codecs.md R106). Counts, positions, sizes and storage offsets are natural numbers,
as R10 says ("All arithmetic in pseudocode is on natural numbers ... unless a width is stated"). -/

namespace Sys2Proof

/-- A byte is 8 bits (R10). -/
abbrev Byte := BitVec 8

/-- The 16-bit check value of the CRC unit (R101, R106(b)). -/
abbrev CrcWord := BitVec 16

/-- `bs` begins with `pat` (R171: the first L bytes are compared, the rest is not looked at). -/
abbrev beginsWith (pat bs : List Byte) : Bool := pat.isPrefixOf bs

end Sys2Proof
end

