-- ==== Sys2Proof/Config.lean ====
section
/-! DEFINITION. What is fixed for this hardware and what an implementation fixes (spec 00_scope.md R7, R8).
The fixed numbers are definitions. The OPEN parameters of R7 are fields of `Params`, which every State carries, so that a
statement about every state holds for every value of them (notes/assumptions/5.md); the values at reset of those for which R7
gives no default are the opaque constants below, of which nothing can be proved but the range R7 gives. -/

namespace Sys2Proof

/-- `FB_CAP`, the capacity of the frame buffer in bytes (R7, D11). -/
def Config.fbCap : Nat := 64

/-- `RETRY_INIT`, the bound `serviceReader` loads (R7). -/
def Config.retryInit : Nat := 8

/-- The seed of the CRC (R8, R101). -/
def Config.crcSeed : CrcWord := 0x6363

/-- The first bytes of the commands and the answer bytes of WRITE (R8). -/
def Config.cmdReqa : Byte := 0x26
def Config.cmdWupa : Byte := 0x52
def Config.cmdRead : Byte := 0x30
def Config.cmdWrite : Byte := 0xA2
def Config.selCl1 : Byte := 0x93
def Config.selCl2 : Byte := 0x95
def Config.nvbAnticoll : Byte := 0x20
def Config.nvbSelect : Byte := 0x70
def Config.ack : Byte := 0x0A
def Config.nak : Byte := 0x01
def Config.cascadeTag : Byte := 0x88

/-- The parameters of R7 that an implementation fixes. Plain data; no step writes it. -/
structure Params where
  /-- `T_BIT`: ticks in one bit period, at least 8 (R7, D3). -/
  tBit : Nat
  /-- `RX_TIMEOUT_BITS`: quiet bit periods before "no frame", at least 1 (R7, D8). -/
  rxTimeoutBits : Nat
  /-- `FDT_TICKS[0]`: the reply delay after a last bit 0 (R7, R255, D10). -/
  fdtTicks0 : Nat
  /-- `FDT_TICKS[1]`: the reply delay after a last bit 1. -/
  fdtTicks1 : Nat
  /-- `PARITY_SEED`: reset value of the encoder's parity accumulator (R7, R156, D14). -/
  paritySeed : Bool
  /-- `UID[0..6]` (R7, D26). -/
  uid : Vector Byte 7
  deriving DecidableEq, Repr

/-- OPEN (R7): how far `T_BIT` lies above the least value 8. -/
opaque Config.tBitAbove8 : Nat

/-- OPEN (R7): how far `RX_TIMEOUT_BITS` lies above the least value 1. -/
opaque Config.rxTimeoutAbove1 : Nat

/-- OPEN (R7): the two reply delays `FDT_TICKS[s]`. -/
opaque Config.fdtTicks : Bool → Nat

/-- OPEN (R7, R210): the reference and the size that `initialize` was called with before the reset state. -/
opaque Config.storageRef : Nat
opaque Config.storageSize : Nat

/-- FREE INPUT (R252): what `BTP.carrier` answers at the n-th free answer. -/
opaque Config.freeCarrier : Nat → Bool

/-- FREE INPUT (R254): what the n-th free answer of `BTP.waitEdge` is: `none` is Quiet, `some t` an edge at tick t. -/
opaque Config.freeEdge : Nat → Option Nat

def Config.tBit : Nat := 8 + Config.tBitAbove8
def Config.rxTimeoutBits : Nat := 1 + Config.rxTimeoutAbove1

/-- The spec's default UID (R7): 04 E3 EF A2 EF 20 80. -/
def Config.defaultUid : Vector Byte 7 := #v[0x04, 0xE3, 0xEF, 0xA2, 0xEF, 0x20, 0x80]

/-- The parameters at reset: the spec's defaults for `PARITY_SEED` and the UID (notes/assumptions/6.md), free constants for
the rest. -/
def Config.params : Params :=
  { tBit := Config.tBit, rxTimeoutBits := Config.rxTimeoutBits, fdtTicks0 := Config.fdtTicks false,
    fdtTicks1 := Config.fdtTicks true, paritySeed := false, uid := Config.defaultUid }

/-- The ranges R7 gives: `T_BIT` ≥ 8 and `RX_TIMEOUT_BITS` ≥ 1. -/
abbrev Params.InRange (p : Params) : Prop := 8 ≤ p.tBit ∧ 1 ≤ p.rxTimeoutBits

end Sys2Proof
end

