-- ==== Sys2Proof/Syntax.lean ====
section
/-! DEFINITION. The instructions: the nine reader commands of spec/opcode_table.json (spec 00_scope.md R3, 30_encoding.md R77
and R80), one constructor per row, with the operands of R78. Trailing bytes that no rule looks at are no operand. -/

namespace Sys2Proof

/-- A reader command. -/
inductive Instr where
  /-- REQA, short frame 26 (R174). -/
  | reqa
  /-- WUPA, short frame 52 (R175). -/
  | wupa
  /-- ANTICOLL_CL1, 93 20 (R177). -/
  | anticollCl1
  /-- ANTICOLL_CL2, 95 20 (R178). -/
  | anticollCl2
  /-- SELECT_CL1, 93 70; what follows is ignored (R179). -/
  | selectCl1
  /-- SELECT_CL2, 95 70; what follows is ignored (R180). -/
  | selectCl2
  /-- READ, 30 N (R182): the operand is the block index N = FB[1]. -/
  | read (block : Byte)
  /-- WRITE, A2 b ... (R183): the block index b = FB[1] and every received byte after it. A frame that can be accepted has
  exactly six of them, d0 d1 d2 d3 crcL crcH; a WRITE of any other length is still WRITE and is answered with NAK. -/
  | write (block : Byte) (rest : List Byte)
  /-- HLTA, 50 00 57 CD (R184). -/
  | hlta
  deriving DecidableEq, Repr

end Sys2Proof
end

