-- ==== Sys2Proof/WellFormed.lean ====
section
/-! DEFINITION. Which terms of `Instr` some received frame can carry: a frame of a WRITE must fit the frame buffer of
`FB_CAP` = 64 bytes (spec 10_state.md R20, R21: RXBYTES is 0 to FB_CAP). The operands of the other commands admit every
value. -/

namespace Sys2Proof

/-- The frame `A2 b rest` is at most `FB_CAP` bytes long. -/
def Instr.wellFormed : Instr → Bool
  | .reqa => true
  | .wupa => true
  | .anticollCl1 => true
  | .anticollCl2 => true
  | .selectCl1 => true
  | .selectCl2 => true
  | .read _ => true
  | .write _ rest => decide (rest.length + 2 ≤ Config.fbCap)
  | .hlta => true

end Sys2Proof
end

