-- ==== Sys2Proof/Decode.lean ====
section
/-! DEFINITION. From the bytes of a received frame to the command they are, and back (spec 30_encoding.md R77, R78, R80;
43_protocol_commands.md R171). Decoding looks at the bytes alone; whether the command has an effect in the current phase is
its meaning's matter (R82). The patterns of all nine rows are pairwise distinct, so the order of the tests affects nothing. -/

namespace Sys2Proof

/-- Why a frame is no command. All of them are "anything else" to the state machine (R81); none is an error. -/
inductive Reject where
  /-- RXBYTES = 0: no frame, or one too short to hold a byte (R21). -/
  | emptyFrame
  /-- The frame is a proper beginning of a command (R82: "shorter than L does not match"). -/
  | truncated
  /-- No row's pattern is a beginning of the frame (R81). -/
  | unknownCommand
  /-- More bytes than the frame buffer holds; no received frame is (R21). -/
  | overlong
  deriving DecidableEq, Repr

/-- The pattern of HLTA with the CRC that setup computes (R35, R80, R184). -/
def hltaPattern : List Byte := [0x50, 0x00, 0x57, 0xCD]

/-- The rows' patterns that are fixed in the block (R80); the one of HLTA is a static frame. -/
def patReqa : List Byte := [Config.cmdReqa]
def patWupa : List Byte := [Config.cmdWupa]
def patAnticollCl1 : List Byte := [Config.selCl1, Config.nvbAnticoll]
def patAnticollCl2 : List Byte := [Config.selCl2, Config.nvbAnticoll]
def patSelectCl1 : List Byte := [Config.selCl1, Config.nvbSelect]
def patSelectCl2 : List Byte := [Config.selCl2, Config.nvbSelect]
def patRead : List Byte := [Config.cmdRead]
def patWrite : List Byte := [Config.cmdWrite]

/-- The frame is a proper beginning of a command: of a select, of HLTA, or READ or WRITE without a block index. -/
def isTruncated (hlta bs : List Byte) : Bool :=
  [patAnticollCl1, patAnticollCl2, hlta].any (fun pat => beginsWith bs pat) || bs == patRead || bs == patWrite

/-- The command a frame is, given the static frame HLTA it is compared with (R184). READ and WRITE need two bytes (R80). -/
def decodeFrame (hlta bs : List Byte) : Except Reject Instr :=
  if Config.fbCap < bs.length then .error .overlong
  else if bs.isEmpty then .error .emptyFrame
  else if beginsWith patReqa bs then .ok .reqa
  else if beginsWith patWupa bs then .ok .wupa
  else if beginsWith patAnticollCl1 bs then .ok .anticollCl1
  else if beginsWith patAnticollCl2 bs then .ok .anticollCl2
  else if beginsWith patSelectCl1 bs then .ok .selectCl1
  else if beginsWith patSelectCl2 bs then .ok .selectCl2
  else if decide (2 ≤ bs.length) && beginsWith patRead bs then .ok (.read (bs.getD 1 0))
  else if decide (2 ≤ bs.length) && beginsWith patWrite bs then .ok (.write (bs.getD 1 0) (bs.drop 2))
  else if beginsWith hlta bs then .ok .hlta
  else if isTruncated hlta bs then .error .truncated
  else .error .unknownCommand

/-- The decoder with the HLTA frame every initialised block holds. -/
def decode (bs : List Byte) : Except Reject Instr := decodeFrame hltaPattern bs

/-- The first `n` bytes of the number `w`, least significant byte first: the byte at the lowest index of the frame is the
first word of the instruction (notes/assumptions/12.md). -/
def bytesOfWord : Nat → Nat → List Byte
  | 0, _ => []
  | n + 1, w => BitVec.ofNat 8 w :: bytesOfWord n (w / 256)

/-- How many bytes a table word is laid out to: the longest command is the eight bytes of an acceptable WRITE (R77), and
every bit above `nbits` is 0. -/
def tableBytes (nbits w : Nat) : List Byte := bytesOfWord (max 8 (nbits / 8)) (w % 2 ^ nbits)

/-- The instruction the decoder reads from a word of spec/opcode_table.json. -/
def decodeTableWord (nbits w : Nat) : Option Instr :=
  match decode (tableBytes nbits w) with
  | .ok i => some i
  | .error _ => none

/-- The bytes of a command in transmission order (R77, R83), the shortest frame that carries all its operands. -/
def encode : Instr → List Byte
  | .reqa => patReqa
  | .wupa => patWupa
  | .anticollCl1 => patAnticollCl1
  | .anticollCl2 => patAnticollCl2
  | .selectCl1 => patSelectCl1
  | .selectCl2 => patSelectCl2
  | .read block => [Config.cmdRead, block]
  | .write block rest => Config.cmdWrite :: block :: rest
  | .hlta => hltaPattern

end Sys2Proof
end

