-- ==== Sys2Proof/Machine/Codecs.lean ====
section
/-! DEFINITION. The Frame Codecs (spec 40_frame_codecs.md R100 to R107): CRC-16 and the byte check character, and the static
frames whose trailers they compute at setup (44_service_and_storage.md R211). -/

namespace Sys2Proof.Machine

/-- One of the eight shifts of R101: "if crc[0] = 1 then crc <- (crc >> 1) xor 0x8408 else crc <- crc >> 1". -/
def crcShift (crc : CrcWord) : CrcWord :=
  if crc.getLsbD 0 then (crc >>> 1) ^^^ 0x8408 else crc >>> 1

/-- One byte of R101: `crc <- crc xor zext_16(b)`, then eight shifts. -/
def crcByte (crc : CrcWord) (b : Byte) : CrcWord :=
  crcShift (crcShift (crcShift (crcShift (crcShift (crcShift (crcShift (crcShift (crc ^^^ b.setWidth 16))))))))

/-- The CRC register after the bytes of `seq`, from the seed (R101). -/
def crcRun (seq : List Byte) : CrcWord := seq.foldl crcByte Config.crcSeed

/-- `crc16(seq) -> (lo, hi)` (R100, R101). -/
def crc16 (seq : List Byte) : Byte × Byte := ((crcRun seq).setWidth 8, (crcRun seq >>> 8).setWidth 8)

/-- The two CRC bytes in the order they travel: low byte first (R51). -/
def crcBytes (seq : List Byte) : List Byte := [(crc16 seq).1, (crc16 seq).2]

/-- The byte-wise form of one byte that R101 gives beside the shifting form. -/
def crcByteWise (crc : CrcWord) (b : Byte) : CrcWord :=
  let x : Byte := b ^^^ crc.setWidth 8
  let x : Byte := x ^^^ (x <<< 4)
  let w : CrcWord := x.setWidth 16
  (crc >>> 8) ^^^ (w <<< 8) ^^^ (w <<< 3) ^^^ (w >>> 4)

/-- Appending a CRC (R102): the payload, then low byte, high byte. -/
def withCrc (payload : List Byte) : List Byte := payload ++ crcBytes payload

/-- `crcOk` on the bytes of a received frame (R103): false for fewer than two bytes. -/
def crcOk (frame : List Byte) : Bool :=
  decide (2 ≤ frame.length) &&
    frame.drop (frame.length - 2) == crcBytes (frame.take (frame.length - 2))

/-- `bcc` of four bytes (R105). -/
def bcc (b0 b1 b2 b3 : Byte) : Byte := b0 ^^^ b1 ^^^ b2 ^^^ b3

/-- The six static frames (spec 10_state.md R35). Read-only after `initialize`. -/
structure Statics where
  atqa : List Byte
  ctUid1 : List Byte
  uid2 : List Byte
  sakNc : List Byte
  sakC : List Byte
  hlta : List Byte
  deriving DecidableEq, Repr

/-- Building the static frames (R211). -/
def buildStatics (uid : Vector Byte 7) : Statics :=
  { atqa := [0x44, 0x00]
    ctUid1 := [Config.cascadeTag, uid[0], uid[1], uid[2], bcc Config.cascadeTag uid[0] uid[1] uid[2]]
    uid2 := [uid[3], uid[4], uid[5], uid[6], bcc uid[3] uid[4] uid[5] uid[6]]
    sakNc := withCrc [0x04]
    sakC := withCrc [0x00]
    hlta := withCrc [0x50, 0x00] }

end Sys2Proof.Machine
end

