-- ==== Sys2Proof/Machine/Memory.lean ====
section
/-! DEFINITION. Sparse data by key, in one canonical form: a list of (key, value) pairs with strictly rising keys and no entry
equal to the value an unlisted key reads as. Used for the bytes of a storage region (spec 20_memory.md R54 to R57) and for the
regions that are not bound at the moment (70_reset_and_hazards.md R266). -/

namespace Sys2Proof.Machine

/-- Read a key of a sparse map whose unlisted keys read as `d`. -/
def sparseRead {β : Type} (d : β) : List (Nat × β) → Nat → β
  | [], _ => d
  | (a, v) :: m, k => if a = k then v else sparseRead d m k

/-- Write a key, keeping the canonical form: writing `d` removes the entry. -/
def sparseWrite {β : Type} [DecidableEq β] (d : β) : List (Nat × β) → Nat → β → List (Nat × β)
  | [], k, v => if v = d then [] else [(k, v)]
  | (a, w) :: m, k, v =>
    if k < a then (if v = d then (a, w) :: m else (k, v) :: (a, w) :: m)
    else if k = a then (if v = d then m else (k, v) :: m)
    else (a, w) :: sparseWrite d m k v

/-- The canonical form: keys strictly rising, no entry equal to `d`. -/
def sparseWf {β : Type} [DecidableEq β] (d : β) : List (Nat × β) → Bool
  | [] => true
  | (a, v) :: m => decide (v ≠ d) && m.all (fun e => decide (a < e.1)) && sparseWf d m

/-- The bytes of one storage region: (offset, byte) pairs. -/
abbrev Memory := List Host.Cell

/-- What a storage byte that nobody has written reads as (DESIGN CHOICE, notes/assumptions/8.md). -/
def Memory.unlisted : Byte := 0x00

def Memory.read (m : Memory) (off : Nat) : Byte := sparseRead Memory.unlisted m off

def Memory.write (m : Memory) (off : Nat) (v : Byte) : Memory := sparseWrite Memory.unlisted m off v

def Memory.wf (m : Memory) : Bool := sparseWf Memory.unlisted m

/-- The regions not bound at the moment, by their identity; a region nobody has written has no entry. -/
abbrev Regions := List (Nat × Memory)

def Regions.read (r : Regions) (ref : Nat) : Memory := sparseRead [] r ref

def Regions.write (r : Regions) (ref : Nat) (m : Memory) : Regions := sparseWrite [] r ref m

/-- Canonical, and every region in it canonical. -/
def Regions.wf (r : Regions) : Bool := sparseWf [] r && r.all (fun e => Memory.wf e.2)

end Sys2Proof.Machine
end

