-- ==== Sys2Proof/Machine/State.lean ====
section
/-! DEFINITION. The state of the block (spec 10_state.md), the port and host inputs it consumes, and the state right after
reset, that is after `initialize` (70_reset_and_hazards.md R261). Plain data. -/

namespace Sys2Proof.Machine

/-- `PS[2:0]`, the phase (R31, R32). -/
inductive Phase where
  | idle
  | ready
  | active
  deriving DecidableEq, Repr

/-- `PS` (R31): the phase and the halted flag H = PS[3]. R32 asks for exactly this instead of the numeric codes. -/
structure ProtState where
  phase : Phase
  halted : Bool
  deriving DecidableEq, Repr

/-- An answer of `BTP.waitEdge` (R254). -/
inductive PortAnswer where
  | edge (t : Nat)
  | quiet
  deriving DecidableEq, Repr

/-- A port operation with its arguments and answer, as R214 counts it among what can be observed. -/
inductive PortOp where
  | carrier (answer : Bool)
  | drain
  | waitEdge (deadline : Nat) (answer : PortAnswer)
  | setReplyDelay (s : Bool)
  | waitSlot (ticks : Nat)
  deriving DecidableEq, Repr

/-- What the host does between calls (R210, R212, R220). -/
inductive HostCall where
  | initBlock (ref size : Nat)
  | serviceReader
  | storeByte (ref off : Nat) (v : Byte)
  deriving DecidableEq, Repr

/-- Which buffer `txManchester` sends from (R150): FB or a static frame. HLTA is never sent (R35). -/
inductive TxSrc where
  | fb
  | atqa
  | ctUid1
  | uid2
  | sakNc
  | sakC
  deriving DecidableEq, Repr

/-- Where `rxMiller` stands (R137): before the drain, in the wait for quiet, in the wait for the start edge, in the frame. -/
inductive RxPoint where
  | drain
  | quiet
  | start
  | frame
  deriving DecidableEq, Repr

/-- Which symbol `txManchester` is sending (R158). -/
inductive TxSym where
  | soc
  | bit
  | parity
  | eoc
  deriving DecidableEq, Repr

/-- The position in the pseudocode of R212, R137 and R158 (R29: "the model's own position in the pseudocode"). -/
inductive Ctl where
  /-- S_DONE: no call in progress; the host acts next. -/
  | done
  /-- S_CHECK: at the entry of `serviceReader`. -/
  | check
  /-- S_RX: inside `rxMiller`. -/
  | rx (p : RxPoint)
  /-- `rxMiller` has returned; RETRY is looked at next. -/
  | count
  /-- S_DISPATCH. -/
  | dispatch
  /-- S_TX: the next `emit` sends the first or the second half of this symbol. -/
  | tx (sym : TxSym) (second : Bool)
  deriving DecidableEq, Repr

/-- One entry of `TXLOG` (R160): FDT_SEL at the call, the bytes, the slot states. -/
structure TxRecord where
  fdtSel : Bool
  bytes : List Byte
  slots : List Bool
  deriving DecidableEq, Repr

/-- Everything the spec gives the machine; INVENTORY.md names the rule of every field. -/
structure State where
  /-- The parameters of R7; never written. -/
  params : Params
  /-- FB (R20). -/
  fb : Vector Byte 64
  /-- RXBYTES (R21). -/
  rxBytes : Nat
  /-- HBITPOS (R22). -/
  hbitPos : Nat
  /-- BYTEPOS (R23). -/
  bytePos : Nat
  /-- t, e, c, r: the decoder's temporaries (R24, R261). -/
  rxT : Nat
  rxE : Nat
  rxC : Nat
  rxR : PortAnswer
  /-- TXI, TXK, PAR: the encoder's working registers (R25). -/
  txI : Nat
  txK : Nat
  par : Bool
  /-- buf and n, the arguments of the running `txManchester` (R150). -/
  txSrc : TxSrc
  txLen : Nat
  /-- What is left of the running command after its `txManchester` has returned: the assignment `PS <- ..` that R174, R175 and
  R180 put there, if the command has one. -/
  psAfter : Option ProtState
  /-- PS (R31). -/
  ps : ProtState
  /-- RETRY (R33). -/
  retry : Nat
  /-- FDT_SEL (R34). -/
  fdtSel : Bool
  /-- The static frames (R35). -/
  statics : Statics
  /-- STORAGE_REF, STORAGE_SIZE (R36). -/
  storageRef : Nat
  storageSize : Nat
  /-- INIT_DONE (R37). -/
  initDone : Bool
  /-- MOD (R44, R151): true is DRIVE. -/
  modLine : Bool
  /-- The control phase (R29). -/
  ctl : Ctl
  /-- The bytes of the bound storage region (R41, R54). -/
  storage : Memory
  /-- The bytes of the regions not bound at the moment (R266). -/
  unbound : Regions
  /-- TXLOG, oldest first (R44, R160). -/
  txLog : List TxRecord
  /-- The reply delay the port was programmed with and has not used yet (R255). -/
  portDelay : Option Bool
  /-- The answers of `BTP.carrier` to come (R252). -/
  carrierIn : List Bool
  /-- The answers of `BTP.waitEdge` to come (R254). -/
  edgeIn : List PortAnswer
  /-- After the listed answers: Quiet for ever (R221), or free answers. -/
  quietAfter : Bool
  /-- How many free answers the port has given. -/
  freeCount : Nat
  /-- What the host does next (R221); after it, `serviceReader` for ever (R267). -/
  hostIn : List HostCall
  /-- The port operations issued so far, newest first (R214). -/
  portLog : List PortOp
  deriving DecidableEq, Repr

/-- A fault of the machine. There is none: "There are no fatal errors in this core: every failure path is absorbed into a
state transition or silence" (R230). No step raises one, so nothing unsafe hides here. -/
inductive Fault where
  deriving DecidableEq, Repr

/-- The conditions to which the spec gives no meaning (R240, a closed list of three), and the arm of an instruction that has
no meaning yet. Each is safe: the model stops where the source defines nothing. -/
inductive Refusal where
  /-- An instruction of the table without a meaning. No arm of this model raises it. Safe. -/
  | notModelled (mnemonic : String)
  /-- R134: a roll of the decoder needs the byte at index FB_CAP. Raised by the in-frame step of `rxMiller`. Safe. -/
  | rxOverrun
  /-- R150: `txManchester` called with n = 0. Raised by the call of `txManchester`; no rule makes that call. Safe. -/
  | txEmpty
  /-- R212: `serviceReader` called while INIT_DONE = 0. Raised by the entry of `serviceReader`. Safe. -/
  | notInitialized
  deriving DecidableEq, Repr

/-- The machine right after reset: the end of `initialize` (R261). The values the spec does not give are named in
notes/assumptions/5.md to 8.md. -/
def State.reset : State :=
  { params := Config.params
    fb := Vector.replicate 64 0
    rxBytes := 0
    hbitPos := 0
    bytePos := 0
    rxT := 0
    rxE := 0
    rxC := 0
    rxR := .quiet
    txI := 0
    txK := 0
    par := false
    txSrc := .fb
    txLen := 0
    psAfter := none
    ps := ⟨.idle, false⟩
    retry := 0
    fdtSel := false
    statics := buildStatics Config.params.uid
    storageRef := Config.storageRef
    storageSize := Config.storageSize
    initDone := true
    modLine := false
    ctl := .done
    storage := []
    unbound := []
    txLog := []
    portDelay := none
    carrierIn := []
    edgeIn := []
    quietAfter := false
    freeCount := 0
    hostIn := []
    portLog := [] }

end Sys2Proof.Machine
end

