-- ==== Sys2Proof/Machine/Ops.lean ====
section
/-! DEFINITION. The named operations over the state: registers, frame buffer, storage, the Bit-Timing Port, and what every
dispatch ends with. The block has no exceptions to take and none to return from (spec 60_exceptions.md R230, R238, R239); what
stands in their place, the fall-back of "anything else" (R233, R81), is the one shared operation `anythingElse`. -/

namespace Sys2Proof.Machine

/-- The outcome of a step of this block. -/
abbrev Result := Host.Outcome State Fault Refusal

def State.setPs (s : State) (p : ProtState) : State := { s with ps := p }

def State.setCtl (s : State) (c : Ctl) : State := { s with ctl := c }

def State.setFb (s : State) (f : Vector Byte 64) : State := { s with fb := f }

def State.setStorage (s : State) (m : Memory) : State := { s with storage := m }

/-- `FB[i]` (R11). No rule reads at or above FB_CAP; there the model reads 0. -/
def fbRead (s : State) (i : Nat) : Byte := s.fb[i]?.getD 0

/-- `FB[i] <- v` (R11). -/
def fbWrite (i : Nat) (v : Byte) (s : State) : State := s.setFb (s.fb.setIfInBounds i v)

/-- The bytes `bs` into FB from index `i` on, in ascending order. -/
def fbFill (f : Vector Byte 64) (i : Nat) : List Byte → Vector Byte 64
  | [] => f
  | b :: bs => fbFill (f.setIfInBounds i b) (i + 1) bs

/-- `FB[0..RXBYTES-1]`: the received frame (R21, R170). -/
def received (s : State) : List Byte := s.fb.toList.take s.rxBytes

/-- `MemRead(off, 1)` (R54). -/
def memRead (s : State) (off : Nat) : Byte :=
  if off < s.storageSize then Memory.read s.storage off else 0x00

/-- `MemWrite(off, 1, v)` on a region of `size` bytes (R55). -/
def regionWrite (size : Nat) (m : Memory) (off : Nat) (v : Byte) : Memory :=
  if off < size then Memory.write m off v else m

/-- `MemWrite(off, 1, v)` (R55). -/
def memWrite (s : State) (off : Nat) (v : Byte) : State :=
  s.setStorage (regionWrite s.storageSize s.storage off v)

/-- Byte writes in ascending offset order, each range-checked on its own (R56, R219). -/
def regionFill (size : Nat) (m : Memory) (off : Nat) : List Byte → Memory
  | [] => m
  | v :: vs => regionFill size (regionWrite size m off v) (off + 1) vs

/-- The byte at an offset of any region, bound or not. -/
def byteAt (s : State) (ref off : Nat) : Byte :=
  if ref = s.storageRef then Memory.read s.storage off else Memory.read (Regions.read s.unbound ref) off

/-- Record a port operation (R214). -/
def logPort (op : PortOp) (s : State) : State := { s with portLog := op :: s.portLog }

/-- `BTP.carrier()` (R252): the next listed answer, else a free one. -/
def btpCarrier (s : State) : Bool × State :=
  match s.carrierIn with
  | b :: rest => (b, logPort (.carrier b) { s with carrierIn := rest })
  | [] =>
    (Config.freeCarrier s.freeCount,
      logPort (.carrier (Config.freeCarrier s.freeCount)) { s with freeCount := s.freeCount + 1 })

/-- `BTP.drain()` (R253). The latch and the timer are the port's (R43); the answers to come are those given after it. -/
def btpDrain (s : State) : State := logPort .drain s

/-- The answer the port gives to `waitEdge(d)` when the next edge is `t` ticks after the last restart of its timer: the edge
when it comes by the deadline, else Quiet (R254: `0 ≤ t ≤ D`). -/
def answerBy (d t : Nat) : PortAnswer := if t ≤ d then .edge t else .quiet

/-- The answer made of a free value (R254). -/
def freeAnswer (d : Nat) : Option Nat → PortAnswer
  | some t => answerBy d t
  | none => .quiet

/-- `r <- BTP.waitEdge(d)` (R254). An edge listed later than the deadline stays listed, counted from the deadline, where the
port restarts its timer. -/
def btpWaitEdge (d : Nat) (s : State) : State :=
  match s.edgeIn with
  | .quiet :: q => logPort (.waitEdge d .quiet) { s with rxR := .quiet, edgeIn := q }
  | .edge t :: q =>
    logPort (.waitEdge d (answerBy d t))
      { s with rxR := answerBy d t, edgeIn := if t ≤ d then q else .edge (t - d) :: q }
  | [] =>
    if s.quietAfter then logPort (.waitEdge d .quiet) { s with rxR := .quiet }
    else
      logPort (.waitEdge d (freeAnswer d (Config.freeEdge s.freeCount)))
        { s with rxR := freeAnswer d (Config.freeEdge s.freeCount), freeCount := s.freeCount + 1 }

/-- `BTP.setReplyDelay(b)` (R255). -/
def btpSetReplyDelay (b : Bool) (s : State) : State := logPort (.setReplyDelay b) { s with portDelay := some b }

/-- For how long the next slot deadline is away (R255, R256): the programmed reply delay once, then half a bit period. -/
def slotTicks (s : State) : Nat :=
  match s.portDelay with
  | some true => s.params.fdtTicks1
  | some false => s.params.fdtTicks0
  | none => s.params.tBit / 2

/-- `BTP.waitSlot()` (R256). -/
def btpWaitSlot (s : State) : State := logPort (.waitSlot (slotTicks s)) { s with portDelay := none }

/-- The end of a cycle of the service loop: `while RETRY > 0` (R212). -/
def endCycle (s : State) : State := s.setCtl (if s.retry = 0 then .done else .rx .drain)

/-- "Anything else" (R81), by phase: nothing in IDLE (R176); back to IDLE with H kept in READY (R181), and in ACTIVE when a
frame was received (R185); nothing in ACTIVE on an empty frame (R186). Nothing is sent; the cycle ends. -/
def anythingElse (s : State) : State :=
  match s.ps.phase with
  | .idle => endCycle s
  | .ready => endCycle (s.setPs ⟨.idle, s.ps.halted⟩)
  | .active => if s.rxBytes = 0 then endCycle s else endCycle (s.setPs ⟨.idle, s.ps.halted⟩)

/-- A received frame put where the dispatcher looks for one: FB from index 0, RXBYTES, and the control phase at S_DISPATCH. -/
def placeFrame (bs : List Byte) (s : State) : State :=
  { s with fb := fbFill s.fb 0 bs, rxBytes := min bs.length Config.fbCap, ctl := .dispatch }

end Sys2Proof.Machine
end

