-- ==== Sys2Proof/Machine/Flags.lean ====
section
/-! DEFINITION. The single-bit items of the block. It has no condition codes (spec 10_state.md R30); its bits are the halted
flag in PS (R31), the encoder's parity accumulator (R25, R156) and FDT_SEL (R34, R132). -/

namespace Sys2Proof.Machine

/-- The numeric code of PS that R32 uses: phase in bits 2:0, H in bit 3. Nothing in the block reads it. -/
def psCode (p : ProtState) : BitVec 4 :=
  (match p.phase with
    | .idle => 0
    | .ready => 1
    | .active => 2) ||| (if p.halted then 8 else 0)

/-- The "halted-preserving" value of PS for a phase (R172). -/
def keepHalted (ph : Phase) (s : State) : ProtState := ⟨ph, s.ps.halted⟩

/-- The accumulator after bit `k` of a byte (R155: `PAR <- PAR xor b`). -/
def parStep (par : Bool) (b : Byte) (k : Nat) : Bool := xor par (b.getLsbD k)

/-- The bits of a byte in the order they are sent, least significant first (R154). -/
def bitsOf (b : Byte) : List Bool :=
  [b.getLsbD 0, b.getLsbD 1, b.getLsbD 2, b.getLsbD 3, b.getLsbD 4, b.getLsbD 5, b.getLsbD 6, b.getLsbD 7]

/-- The parity bit of a byte: `PARITY_SEED xor b0 xor ... xor b7` (R156). -/
def parityBit (seed : Bool) (b : Byte) : Bool := (bitsOf b).foldl xor seed

/-- FDT_SEL of a finished frame: `HBITPOS mod 2` (R132). -/
def fdtSelect (hbitPos : Nat) : Bool := hbitPos % 2 == 1

end Sys2Proof.Machine
end

