-- ==== Sys2Proof/Machine/Operands.lean ====
section
/-! DEFINITION. Operand assembly (spec 30_encoding.md R78): block indices, storage offsets, the data and the CRC of a WRITE;
and the block accessors of the Storage Accessor (44_service_and_storage.md R217 to R219). -/

namespace Sys2Proof.Machine

/-- `off = 4 * index + i`, natural numbers, no wrap (R53). -/
def blockOffset (index i : Nat) : Nat := 4 * index + i

/-- `readBlock(index)` (R218). -/
def readBlock (s : State) (index : Nat) : List Byte :=
  [memRead s (blockOffset index 0), memRead s (blockOffset index 1), memRead s (blockOffset index 2),
    memRead s (blockOffset index 3)]

/-- `writeBlock(index, d)` (R219). -/
def writeBlock (index : Nat) (d : List Byte) (s : State) : State :=
  s.setStorage (regionFill s.storageSize s.storage (blockOffset index 0) d)

/-- The sixteen bytes READ sends: blocks N to N+3 (R182, R218). -/
def readData (s : State) (block : Byte) : List Byte :=
  readBlock s block.toNat ++ readBlock s (block.toNat + 1) ++ readBlock s (block.toNat + 2) ++
    readBlock s (block.toNat + 3)

/-- The frame a WRITE came in (R77). -/
def writeFrame (block : Byte) (rest : List Byte) : List Byte := Config.cmdWrite :: block :: rest

/-- The data bytes d0..d3 of a WRITE (R78). -/
def writeData (rest : List Byte) : List Byte := rest.take 4

/-- `ok` of R183: the frame is eight bytes long and its CRC is right. -/
def writeAccepted (block : Byte) (rest : List Byte) : Bool :=
  decide ((writeFrame block rest).length = 8) && crcOk (writeFrame block rest)

end Sys2Proof.Machine
end

