-- ==== Sys2Proof/Machine/TxManchester.lean ====
section
/-! DEFINITION. The Manchester encoder (spec 42_manchester_encoder.md): the call of `txManchester`, and its run, one `emit` a
step. -/

namespace Sys2Proof.Machine

/-- The two slots of a bit: 1 is (DRIVE, RELEASE), 0 is (RELEASE, DRIVE) (R72, R155). -/
def slotsOfBit (b : Bool) : List Bool := [b, !b]

/-- The slots of a byte: its eight data bits and its parity bit (R154 to R156). -/
def slotsOfByte (seed : Bool) (b : Byte) : List Bool :=
  (bitsOf b).flatMap slotsOfBit ++ slotsOfBit (parityBit seed b)

/-- The slots of a frame: SOC, the bytes, EOC (R75, R158). -/
def slotsOfFrame (seed : Bool) (bs : List Byte) : List Bool :=
  [true, false] ++ bs.flatMap (slotsOfByte seed) ++ [false, false]

/-- The buffer a transmission is sent from (R150). -/
def srcBytes (s : State) : TxSrc → List Byte
  | .fb => s.fb.toList
  | .atqa => s.statics.atqa
  | .ctUid1 => s.statics.ctUid1
  | .uid2 => s.statics.uid2
  | .sakNc => s.statics.sakNc
  | .sakC => s.statics.sakC

/-- `txManchester(buf, n)` begins: its arguments, the record in TXLOG (R160), the control phase S_TX; `after` is the value the
command assigns to PS once it has returned (R174, R175, R180), none where PS is unchanged. -/
def startTx (src : TxSrc) (n : Nat) (after : Option ProtState) (s : State) : State :=
  { s with
    txSrc := src
    txLen := n
    psAfter := after
    txLog := s.txLog ++
      [{ fdtSel := s.fdtSel, bytes := (srcBytes s src).take n,
         slots := slotsOfFrame s.params.paritySeed ((srcBytes s src).take n) }]
    ctl := .tx .soc false }

/-- The call `txManchester(buf, n)`, followed by `PS <- after` where that is some value: refused for n = 0 (R150). The slots
follow, one a step. -/
def txManchester (src : TxSrc) (n : Nat) (after : Option ProtState) (s : State) : Result :=
  if n = 0 then .refused .txEmpty else .next (startTx src n after s)

/-- `txManchester` has returned: the command makes the assignment to PS it still owes (R174, R175, R180), and the cycle ends. -/
def finishCommand (s : State) : State :=
  endCycle { s with ps := s.psAfter.getD s.ps, psAfter := none }

/-- `emit(v)`: `BTP.waitSlot()`, then `MOD <- v` (R152). -/
def emit (v : Bool) (s : State) : State := { btpWaitSlot s with modLine := v }

/-- `buf[TXI]`. No rule reads outside the buffer; there the model reads 0. -/
def txByte (s : State) : Byte := (srcBytes s s.txSrc).getD s.txI 0

/-- Byte `i` begins: `PAR <- PARITY_SEED`, TXK is 0 (R156, R158). -/
def startByte (i : Nat) (s : State) : State :=
  { s with txI := i, txK := 0, par := s.params.paritySeed, ctl := .tx .bit false }

/-- After the second half of bit TXK: `PAR <- PAR xor b`, and the next bit or the parity bit (R155, R156). -/
def afterBit (s : State) : State :=
  { s with
    par := parStep s.par (txByte s) s.txK
    txK := if s.txK < 7 then s.txK + 1 else s.txK
    ctl := if s.txK < 7 then .tx .bit false else .tx .parity false }

/-- After the parity bit of byte TXI: the next byte, or the end of communication (R158). -/
def afterParity (s : State) : State :=
  if s.txI + 1 < s.txLen then startByte (s.txI + 1) s else s.setCtl (.tx .eoc false)

/-- One `emit` of `txManchester` (R158), and after the last one what the command still does. -/
def stepTx (sym : TxSym) (second : Bool) (s : State) : State :=
  match sym, second with
  | .soc, false => (emit true s).setCtl (.tx .soc true)
  | .soc, true => startByte 0 (emit false s)
  | .bit, false => (emit ((txByte s).getLsbD s.txK) s).setCtl (.tx .bit true)
  | .bit, true => afterBit (emit (!(txByte s).getLsbD s.txK) s)
  | .parity, false => (emit s.par s).setCtl (.tx .parity true)
  | .parity, true => afterParity (emit (!s.par) s)
  | .eoc, false => (emit false s).setCtl (.tx .eoc true)
  | .eoc, true => finishCommand (emit false s)

end Sys2Proof.Machine
end

