-- ==== Sys2Proof/Machine/RxMiller.lean ====
section
/-! DEFINITION. The Miller decoder (spec 41_miller_decoder.md R122 to R137), one port operation a step, with the register
updates that follow it. -/

namespace Sys2Proof.Machine

/-- `TH1`, `TH2`, `TH3` (00_scope.md R7): `(k*T_BIT) div 4`, k = 5, 7, 9. -/
def th1 (p : Params) : Nat := 5 * p.tBit / 4
def th2 (p : Params) : Nat := 7 * p.tBit / 4
def th3 (p : Params) : Nat := 9 * p.tBit / 4

/-- `RX_MASK[0..17]` (10_state.md R26). -/
def rxMaskTable : List Byte :=
  [0x00, 0x01, 0x00, 0x02, 0x00, 0x04, 0x00, 0x08, 0x00, 0x10, 0x00, 0x20, 0x00, 0x40, 0x00, 0x80, 0x00, 0x00]

/-- `RX_MASK[slot]`. No rule reads outside 0..17; there the model reads 0. -/
def rxMask (slot : Nat) : Byte := rxMaskTable.getD slot 0

/-- `e = [t > TH1] + [t > TH2]` (R126). -/
def gapExtra (p : Params) (t : Nat) : Nat := (if th1 p < t then 1 else 0) + (if th2 p < t then 1 else 0)

/-- `roll()` (R128), refused where the next byte would be FB[FB_CAP] (R134). -/
def roll (s : State) : Result :=
  if Config.fbCap ≤ s.bytePos + 1 then .refused .rxOverrun
  else .next (fbWrite (s.bytePos + 1) 0x00 { s with bytePos := s.bytePos + 1, hbitPos := s.hbitPos - 18 })

/-- `HBITPOS <- HBITPOS + n; if HBITPOS >= 18: roll()` (R128, R129). -/
def advance (n : Nat) (s : State) : Result :=
  if 18 ≤ s.hbitPos + n then roll { s with hbitPos := s.hbitPos + n }
  else .next { s with hbitPos := s.hbitPos + n }

/-- `FB[BYTEPOS] <- FB[BYTEPOS] or RX_MASK[HBITPOS]` (R129). -/
def orMask (s : State) : State := fbWrite s.bytePos (fbRead s s.bytePos ||| rxMask s.hbitPos) s

/-- The per-edge update (R129). -/
def rxEdge (t : Nat) (s : State) : Result :=
  match advance (gapExtra s.params t) { s with rxT := t, rxE := gapExtra s.params t } with
  | .next s1 => advance 2 (orMask s1)
  | .fault f => .fault f
  | .refused r => .refused r

/-- The start edge (R125). -/
def rxStartEdge (s : State) : State :=
  fbWrite 0 0x00 { s with hbitPos := 0, bytePos := 0, ctl := .rx .frame }

/-- The no-frame return (R124): RXBYTES is 0 and nothing else is written. -/
def rxNoFrame (s : State) : State := { s with rxBytes := 0, ctl := .count }

/-- A quiet bit period in the wait for the start edge (R124): `c <- c - 1`, "no frame" at 0. -/
def rxStartQuiet (s : State) : State :=
  if s.rxC - 1 = 0 then rxNoFrame { s with rxC := s.rxC - 1 } else { s with rxC := s.rxC - 1 }

/-- The byte count of a finished frame: `BYTEPOS + [HBITPOS > 7]` (R133). -/
def byteCount (bytePos hbitPos : Nat) : Nat := bytePos + (if 7 < hbitPos then 1 else 0)

/-- The end of a frame (R132, R133). -/
def rxEndFrame (s : State) : State :=
  { btpSetReplyDelay (fdtSelect s.hbitPos) { s with fdtSel := fdtSelect s.hbitPos } with
    rxBytes := byteCount s.bytePos s.hbitPos, ctl := .count }

/-- After an answer in the wait for quiet (R123): an edge is discarded; Quiet loads `c`. -/
def rxAfterQuiet (s : State) : State :=
  match s.rxR with
  | .edge _ => s
  | .quiet => { s with rxC := s.params.rxTimeoutBits, ctl := .rx .start }

/-- After an answer in the wait for the start edge (R124, R125). -/
def rxAfterStart (s : State) : State :=
  match s.rxR with
  | .edge _ => rxStartEdge s
  | .quiet => rxStartQuiet s

/-- After an answer inside the frame (R129, R130). -/
def rxAfterFrame (s : State) : Result :=
  match s.rxR with
  | .edge t => rxEdge t s
  | .quiet => .next (rxEndFrame s)

/-- One port operation of `rxMiller` and what follows it (R137). -/
def stepRx (p : RxPoint) (s : State) : Result :=
  match p with
  | .drain => .next ((btpDrain s).setCtl (.rx .quiet))
  | .quiet => .next (rxAfterQuiet (btpWaitEdge s.params.tBit s))
  | .start => .next (rxAfterStart (btpWaitEdge s.params.tBit s))
  | .frame => rxAfterFrame (btpWaitEdge (th3 s.params) s)

/-- After `rxMiller` has returned: `if RXBYTES = 0: RETRY <- RETRY - 1` (R212(d)); the dispatcher is next. -/
def stepCount (s : State) : State :=
  if s.rxBytes = 0 then { s with retry := s.retry - 1, ctl := .dispatch } else s.setCtl .dispatch

end Sys2Proof.Machine
end

