-- ==== Sys2Proof/Machine/Entry.lean ====
section
/-! DEFINITION. The two entry points and the host's side (spec 44_service_and_storage.md R210 to R212, R220, R221;
70_reset_and_hazards.md R261, R266, R267). -/

namespace Sys2Proof.Machine

/-- Bind the region `ref` (R210, R266): its bytes become the bound region's, those of the region bound before are kept under
its own reference. No byte of any region changes. -/
def bindRegion (ref : Nat) (s : State) : State :=
  if ref = s.storageRef then s
  else
    { s with
      storageRef := ref
      storage := Regions.read s.unbound ref
      unbound := Regions.write (Regions.write s.unbound s.storageRef s.storage) ref [] }

/-- `initialize(storageRef, storageSize)` (R210, R211, R261). What R261 leaves unspecified it does not write: FB, RETRY, the
temporaries of the decoder and of the encoder, and the reply delay of the port keep their last values (DESIGN CHOICE,
notes/assumptions/17.md); TXLOG is emptied again (DEDUCED, notes/assumptions/9.md). -/
def initializeBlock (ref size : Nat) (s : State) : State :=
  { bindRegion ref s with
    storageSize := size
    statics := buildStatics s.params.uid
    ps := ⟨.idle, false⟩
    rxBytes := 0
    fdtSel := false
    hbitPos := 0
    bytePos := 0
    modLine := false
    initDone := true
    txLog := [] }

/-- The host changes a byte of a region between calls (R220). -/
def hostStoreByte (ref off : Nat) (v : Byte) (s : State) : State :=
  if ref = s.storageRef then s.setStorage (Memory.write s.storage off v)
  else { s with unbound := Regions.write s.unbound ref (Memory.write (Regions.read s.unbound ref) off v) }

/-- A host action (R221): `serviceReader` begins at its carrier test (R261). -/
def hostAct (h : HostCall) (s : State) : State :=
  match h with
  | .initBlock ref size => initializeBlock ref size s
  | .serviceReader => s.setCtl .check
  | .storeByte ref off v => hostStoreByte ref off v s

/-- At rest: the host's next action; with none listed the host calls `serviceReader` again, for ever (R267). -/
def stepDone (s : State) : State :=
  match s.hostIn with
  | h :: rest => hostAct h { s with hostIn := rest }
  | [] => hostAct .serviceReader s

/-- After the carrier's answer (R212(a), (b)). Here RETRY is loaded; between calls, where R33 and R38 leave it unspecified, it
keeps its last value (DESIGN CHOICE, notes/assumptions/17.md). -/
def afterCarrier (present : Bool) (s : State) : State :=
  if present then { s with retry := Config.retryInit, ctl := .rx .drain } else s.setCtl .done

/-- The entry of `serviceReader` (R212). -/
def stepCheck (s : State) : Result :=
  if s.initDone then .next (afterCarrier (btpCarrier s).1 (btpCarrier s).2) else .refused .notInitialized

end Sys2Proof.Machine
end

