-- ==== Sys2Proof/Machine/ActiveCommands.lean ====
section
/-! DEFINITION. The commands accepted in phase ACTIVE (spec 43_protocol_commands.md section 4), whatever H. In another phase
each is "anything else" (30_encoding.md R82). -/

namespace Sys2Proof.Machine

/-- READ (R182): sixteen storage bytes and their CRC into FB[0..17], then `tx(FB, 18)`; PS unchanged. -/
def execRead (block : Byte) (s : State) : Result :=
  if s.ps.phase = .active then txManchester .fb 18 none (s.setFb (fbFill s.fb 0 (withCrc (readData s block))))
  else .next (anythingElse s)

/-- WRITE (R183): an accepted frame stores its four bytes and is answered with ACK, any other with NAK; `tx(FB, 1)`; PS
unchanged. -/
def execWrite (block : Byte) (rest : List Byte) (s : State) : Result :=
  if s.ps.phase = .active then
    if writeAccepted block rest then
      txManchester .fb 1 none (fbWrite 0 Config.ack (writeBlock block.toNat (writeData rest) s))
    else txManchester .fb 1 none (fbWrite 0 Config.nak s)
  else .next (anythingElse s)

/-- HLTA (R184): nothing is sent; `PS <- (IDLE, 1)`. -/
def execHlta (s : State) : Result :=
  if s.ps.phase = .active then .next (endCycle (s.setPs ⟨.idle, true⟩)) else .next (anythingElse s)

end Sys2Proof.Machine
end

