-- ==== Sys2Proof/Machine/IdleCommands.lean ====
section
/-! DEFINITION. The commands accepted in phase IDLE (spec 43_protocol_commands.md section 2). In another phase, or with the
wrong H, each is "anything else" (30_encoding.md R82). -/

namespace Sys2Proof.Machine

/-- REQA (R174): in IDLE with H = 0, `tx(ATQA, 2); PS <- (READY, 0)`, in that order. -/
def execReqa (s : State) : Result :=
  if s.ps = ⟨.idle, false⟩ then txManchester .atqa 2 (some ⟨.ready, false⟩) s else .next (anythingElse s)

/-- WUPA (R175): in IDLE with H = 1, `tx(ATQA, 2); PS <- (READY, 1)`, in that order. -/
def execWupa (s : State) : Result :=
  if s.ps = ⟨.idle, true⟩ then txManchester .atqa 2 (some ⟨.ready, true⟩) s else .next (anythingElse s)

end Sys2Proof.Machine
end

