-- ==== Sys2Proof/Machine/ReadyCommands.lean ====
section
/-! DEFINITION. The commands accepted in phase READY (spec 43_protocol_commands.md section 3), whatever H. In another phase
each is "anything else" (30_encoding.md R82). -/

namespace Sys2Proof.Machine

/-- ANTICOLL_CL1 (R177): `tx(CT_UID1, 5)`; PS unchanged. -/
def execAnticollCl1 (s : State) : Result :=
  if s.ps.phase = .ready then txManchester .ctUid1 5 none s else .next (anythingElse s)

/-- ANTICOLL_CL2 (R178): `tx(UID2, 5)`; PS unchanged. -/
def execAnticollCl2 (s : State) : Result :=
  if s.ps.phase = .ready then txManchester .uid2 5 none s else .next (anythingElse s)

/-- SELECT_CL1 (R179): `tx(SAK_NC, 3)`; PS unchanged. -/
def execSelectCl1 (s : State) : Result :=
  if s.ps.phase = .ready then txManchester .sakNc 3 none s else .next (anythingElse s)

/-- SELECT_CL2 (R180): `tx(SAK_C, 3); PS <- (ACTIVE, H)`, in that order. -/
def execSelectCl2 (s : State) : Result :=
  if s.ps.phase = .ready then txManchester .sakC 3 (some (keepHalted .active s)) s else .next (anythingElse s)

end Sys2Proof.Machine
end

