-- ==== Sys2Proof/Machine/Dispatch.lean ====
section
/-! DEFINITION. One arm per instruction. -/

namespace Sys2Proof.Machine

def exec (i : Instr) (s : State) : Host.Outcome State Fault Refusal :=
  match i with
  -- accepted in phase IDLE
  | .reqa => Sys2Proof.Machine.execReqa s
  | .wupa => Sys2Proof.Machine.execWupa s
  -- accepted in phase READY
  | .anticollCl1 => Sys2Proof.Machine.execAnticollCl1 s
  | .anticollCl2 => Sys2Proof.Machine.execAnticollCl2 s
  | .selectCl1 => Sys2Proof.Machine.execSelectCl1 s
  | .selectCl2 => Sys2Proof.Machine.execSelectCl2 s
  -- accepted in phase ACTIVE
  | .read block => Sys2Proof.Machine.execRead block s
  | .write block rest => Sys2Proof.Machine.execWrite block rest s
  | .hlta => Sys2Proof.Machine.execHlta s

end Sys2Proof.Machine
end

