-- ==== Sys2Proof/Machine/Step.lean ====
section
/-! DEFINITION. One step of the machine: the port operation, or the dispatch of a command, at which the control phase stands
(spec 10_state.md R29, 44_service_and_storage.md R212). -/

namespace Sys2Proof.Machine

/-- S_DISPATCH (43_protocol_commands.md R173): the command the received frame is, or "anything else". -/
def stepDispatch (s : State) : Result :=
  match decodeFrame s.statics.hlta (received s) with
  | .ok i => exec i s
  | .error _ => .next (anythingElse s)

def step (s : State) : Host.Outcome State Fault Refusal :=
  match s.ctl with
  | .done => .next (stepDone s)
  | .check => stepCheck s
  | .rx p => stepRx p s
  | .count => .next (stepCount s)
  | .dispatch => stepDispatch s
  | .tx sym second => .next (stepTx sym second s)

/-- The instruction of a table word, received and about to be dispatched: the block fetches nothing (R28), a command is the
frame in FB (notes/assumptions/13.md). -/
def State.withFetchWord (s : State) (nbits w : Nat) : State := placeFrame (tableBytes nbits w) s

end Sys2Proof.Machine
end

