-- ==== Sys2Proof/Safety.lean ====
section
/-! DEFINITION. What counts as a good state of the block, and the words the claims use. -/

namespace Sys2Proof.Machine

/-- The five control phases of 10_state.md R29. -/
inductive ControlPhase where
  | sCheck
  | sRx
  | sDispatch
  | sTx
  | sDone
  deriving DecidableEq, Repr

/-- The control phase of a position; RETRY is looked at between `rxMiller` and the dispatcher, which R29 counts to neither, so
it stands with the dispatcher here. -/
def Ctl.phase : Ctl → ControlPhase
  | .done => .sDone
  | .check => .sCheck
  | .rx _ => .sRx
  | .count => .sDispatch
  | .dispatch => .sDispatch
  | .tx _ _ => .sTx

/-- The block is inside a service call, past its carrier test. -/
def Ctl.inCall : Ctl → Bool
  | .done => false
  | .check => false
  | .rx _ => true
  | .count => true
  | .dispatch => true
  | .tx _ _ => true

/-- The static frames are those `initialize` builds (R211). -/
abbrev Built (s : State) : Prop := s.statics = buildStatics s.params.uid

/-- The positions of `rxMiller` and of the wait before the dispatcher, where RETRY is not yet 0 (R212: `while RETRY > 0`). -/
def Ctl.decoding : Ctl → Bool
  | .rx _ => true
  | .count => true
  | .done => false
  | .check => false
  | .dispatch => false
  | .tx _ _ => false

/-- `p` is the value of PS that a row of 43_protocol_commands.md R189 gives for the frame in FB, of a command that answers
before it writes PS: REQA, WUPA, SELECT_CL2. -/
def Owed (s : State) (p : ProtState) : Prop :=
  (s.ps = ⟨.idle, false⟩ ∧ decodeFrame s.statics.hlta (received s) = .ok .reqa ∧ p = ⟨.ready, false⟩) ∨
  (s.ps = ⟨.idle, true⟩ ∧ decodeFrame s.statics.hlta (received s) = .ok .wupa ∧ p = ⟨.ready, true⟩) ∨
  (s.ps.phase = .ready ∧ decodeFrame s.statics.hlta (received s) = .ok .selectCl2 ∧ p = ⟨.active, s.ps.halted⟩)

/-- What holds of every state a run reaches after reset:
the parameters are in their ranges (R7); storage is canonical, and the bound region is not also listed among the unbound; an
initialised block has the static frames of R211 (R187(f)); the decoder's and the service loop's counters are in the ranges of
R21 to R24 and R33; nothing but an initialised block is inside a call (R212); MOD is RELEASE when nothing is being sent (R151);
a transmission has an argument, a byte and a bit that exist (R150, R158); and only a transmission leaves an assignment to PS
to be made, the one its command owes (R174, R175, R180). -/
structure Inv (s : State) : Prop where
  params : s.params.InRange
  storage : Memory.wf s.storage = true
  unbound : Regions.wf s.unbound = true
  bound : Regions.read s.unbound s.storageRef = []
  built : s.initDone = true → Built s
  started : s.ctl.inCall = true → s.initDone = true
  rxBytes : s.rxBytes ≤ Config.fbCap
  hbitPos : s.hbitPos ≤ 17
  bytePos : s.bytePos < Config.fbCap
  rxT : s.rxT ≤ th3 s.params
  rxE : s.rxE ≤ 2
  rxC : s.rxC ≤ s.params.rxTimeoutBits
  waiting : s.ctl = .rx .start → 1 ≤ s.rxC
  retry : s.retry ≤ Config.retryInit
  looping : s.ctl.decoding = true → 1 ≤ s.retry
  released : s.ctl.phase ≠ .sTx → s.modLine = false
  sending : s.ctl.phase = .sTx →
    1 ≤ s.txLen ∧ s.txLen ≤ 18 ∧ s.txLen ≤ (srcBytes s s.txSrc).length
  sendingByte : s.ctl.phase = .sTx → (∀ h, s.ctl ≠ .tx .soc h) → s.txI < s.txLen ∧ s.txK ≤ 7
  settled : s.ctl.phase ≠ .sTx → s.psAfter = none
  owed : ∀ p, s.psAfter = some p → Owed s p

/-- `s` after a transmission of `bytes` from `src` has begun: the arguments of `txManchester`, the assignment to PS that follows
it, its record in TXLOG, the control phase, and nothing else (R150, R160). -/
def answering (src : TxSrc) (bytes : List Byte) (after : Option ProtState) (s : State) : State :=
  { s with
    txSrc := src
    txLen := bytes.length
    psAfter := after
    txLog := s.txLog ++
      [{ fdtSel := s.fdtSel, bytes := bytes, slots := slotsOfFrame s.params.paritySeed bytes }]
    ctl := .tx .soc false }

/-- Every byte of every storage region reads in `t` as in `s`. -/
def SameBytes (s t : State) : Prop := ∀ ref off, byteAt t ref off = byteAt s ref off

/-- `path` runs through a service call: step after step, refused nowhere, until the block is at rest; what the path does after
that does not matter. -/
def IsCall (path : Nat → State) : Prop := ∀ k, (path k).ctl ≠ .done → step (path k) = .next (path (k + 1))

/-- The k-th step of a path is a `waitEdge` that was answered with an edge. -/
def EdgeAnswered (path : Nat → State) (k : Nat) : Prop :=
  ∃ p t, p ≠ RxPoint.drain ∧ (path k).ctl = .rx p ∧ (path (k + 1)).rxR = .edge t

/-- Assumption A1 (70_reset_and_hazards.md R276): "every run of `Edge` answers is finite". Inside `rxMiller` one `waitEdge`
answered with an edge follows the other at the next step, and every frame ends with Quiet. -/
def FiniteEdgeRuns (path : Nat → State) : Prop := ∀ k, ∃ j, k ≤ j ∧ ¬ EdgeAnswered path j

/-- Assumption A2 (R276): "the number of non-empty frames in a call is finite": from some step on every decode that returns has
RXBYTES = 0. -/
def FinitelyManyFrames (path : Nat → State) : Prop := ∃ k, ∀ j, k ≤ j → (path j).ctl = .count → (path j).rxBytes = 0

/-- `t` is `s` but for FB. -/
def SameButFb (s t : State) : Prop := t = { s with fb := t.fb }

end Sys2Proof.Machine
end

