-- ==== Sys2Proof/Safety/Pseudocode.lean ====
section
/-! DEFINITION. The dispatcher as spec 43_protocol_commands.md R173 writes it, over FB and RXBYTES, with the bodies of R182 and
R183; for the claim that the machine's dispatch is this. No part of the machine. -/

namespace Sys2Proof.Machine

/-- `match(pattern)` (R171): RXBYTES ≥ L and FB[i] = pattern[i] for every i below L. -/
def matchPattern (s : State) (pat : List Byte) : Bool :=
  decide (pat.length ≤ s.rxBytes) && (List.range pat.length).all (fun i => fbRead s i == pat.getD i 0)

/-- `FB[a..a+n-1]`. -/
def fbSlice (s : State) (a n : Nat) : List Byte := (List.range n).map (fun i => fbRead s (a + i))

/-- `READ()` of R182. -/
def pseudoRead (s : State) : Result :=
  let blk := (fbRead s 1).toNat
  let data := (List.range 16).map (fun i => memRead s (4 * blk + i))
  txManchester .fb 18 none (s.setFb (fbFill s.fb 0 (data ++ [(crc16 data).1, (crc16 data).2])))

/-- `WRITE()` of R183. -/
def pseudoWrite (s : State) : Result :=
  let ok := decide (s.rxBytes = 8) && (crc16 (fbSlice s 0 6) == (fbRead s 6, fbRead s 7))
  if ok then
    let b := (fbRead s 1).toNat
    let s1 := memWrite s (4 * b + 0) (fbRead s 2)
    let s2 := memWrite s1 (4 * b + 1) (fbRead s 3)
    let s3 := memWrite s2 (4 * b + 2) (fbRead s 4)
    let s4 := memWrite s3 (4 * b + 3) (fbRead s 5)
    txManchester .fb 1 none (fbWrite 0 0x0A s4)
  else txManchester .fb 1 none (fbWrite 0 0x01 s)

/-- `dispatch()` of R173; `skip` and `PS <- ..` end the cycle; the other arms transmit, and
`txManchester src n (some p)` is `txManchester(buf, n); PS <- p`. -/
def pseudoDispatch (s : State) : Result :=
  let h := s.ps.halted
  match s.ps.phase with
  | .idle =>
    if !h && matchPattern s [0x26] then txManchester .atqa 2 (some ⟨.ready, false⟩) s
    else if h && matchPattern s [0x52] then txManchester .atqa 2 (some ⟨.ready, true⟩) s
    else .next (endCycle s)
  | .ready =>
    if matchPattern s [0x93, 0x20] then txManchester .ctUid1 5 none s
    else if matchPattern s [0x95, 0x20] then txManchester .uid2 5 none s
    else if matchPattern s [0x93, 0x70] then txManchester .sakNc 3 none s
    else if matchPattern s [0x95, 0x70] then txManchester .sakC 3 (some ⟨.active, h⟩) s
    else .next (endCycle (s.setPs ⟨.idle, h⟩))
  | .active =>
    if decide (2 ≤ s.rxBytes) && matchPattern s [0x30] then pseudoRead s
    else if decide (2 ≤ s.rxBytes) && matchPattern s [0xA2] then pseudoWrite s
    else if matchPattern s s.statics.hlta then .next (endCycle (s.setPs ⟨.idle, true⟩))
    else if s.rxBytes ≠ 0 then .next (endCycle (s.setPs ⟨.idle, h⟩))
    else .next (endCycle s)

/-- No row of the command map (30_encoding.md R80) for the current phase and H matches the received frame. -/
def selectsNoRow (s : State) : Bool :=
  match s.ps.phase with
  | .idle => !(if s.ps.halted then matchPattern s [0x52] else matchPattern s [0x26])
  | .ready =>
    !(matchPattern s [0x93, 0x20] || matchPattern s [0x95, 0x20] || matchPattern s [0x93, 0x70] ||
      matchPattern s [0x95, 0x70])
  | .active =>
    !((decide (2 ≤ s.rxBytes) && (matchPattern s [0x30] || matchPattern s [0xA2])) || matchPattern s s.statics.hlta)

end Sys2Proof.Machine
end

