-- ==== Sys2Proof/Safety/ReaderCode.lean ====
section
/-! DEFINITION. The reader's side, for claims about the decoder only: modified Miller code (spec 30_encoding.md R71) and the
adapter from the encoder's slots to an edge trace (42_manchester_encoder.md R161(d)). No part of the machine. -/

namespace Sys2Proof.Machine

/-- The gaps, in half-bit slots, between the pauses of a bit sequence in modified Miller code, end of communication included
(R71). `since` is how many slots the current bit's start lies after the last pause; `prevOne` says that the bit before was a 1.
A 1 has its pause in the middle; a 0 after a 1 has none; any other 0 has it at its start; the end is one more 0. -/
def millerGaps (since : Nat) (prevOne : Bool) : List Bool → List Nat
  | [] => if prevOne then [] else [since]
  | true :: bs => (since + 1) :: millerGaps 1 true bs
  | false :: bs => if prevOne then millerGaps (since + 2) false bs else since :: millerGaps 2 false bs

/-- The gaps of a whole frame: the start pause lies two slots before the first bit, and counts as a 0 (R71, R125). -/
def readerGaps (bits : List Bool) : List Nat := millerGaps 2 false bits

/-- The bits of characters: eight data bits, least significant first, and a parity bit, whatever it is (R73). -/
def characterBits (cs : List (Byte × Bool)) : List Bool := cs.flatMap (fun c => bitsOf c.1 ++ [c.2])

/-- The seven bits of a short frame (R74). -/
def shortBits (b : Byte) : List Bool := (bitsOf b).take 7

/-- What the port answers to a frame with these gaps, measured exactly: the start edge, the edges, Quiet (R135). -/
def gapTrace (tBit start : Nat) (gaps : List Nat) : List PortAnswer :=
  .edge start :: (gaps.map (fun g => PortAnswer.edge (g * tBit / 2)) ++ [.quiet])

/-- The slots at which the line goes from 1 to 0, numbered from `i`; `prev` is its state before. -/
def fallingSlots (prev : Bool) (i : Nat) : List Bool → List Nat
  | [] => []
  | b :: bs => if prev && !b then i :: fallingSlots b (i + 1) bs else fallingSlots b (i + 1) bs

/-- The differences of consecutive numbers. -/
def stepsBetween : List Nat → List Nat
  | a :: b :: l => (b - a) :: stepsBetween (b :: l)
  | _ => []

/-- The adapter of R161(d): the two SOC slots become 0 1, the line was 1 before; the gaps between falling transitions. -/
def adapterGaps (slots : List Bool) : List Nat :=
  stepsBetween (fallingSlots true 0 ([false, true] ++ slots.drop 2))

end Sys2Proof.Machine
end

