-- ==== Sys2Proof/Certificates/Slice0/Obligations.lean ====
section
/-! DEFINITION. The statements for the provers. Each docstring names the rule of spec/ it formalises. -/

open Sys2Proof Sys2Proof.Machine

/-! ## Encodings -/

/-- R77, R80: decoding the bytes of a well-formed command gives it back, with every operand at every value. -/
def Obligations.DecodeOfEncodeIsTheInstruction : Prop :=
  ∀ i : Instr, i.wellFormed = true → decode (encode i) = .ok i

/-- R80, R171: whatever decodes is well formed and its frame begins with the command's encoding; a WRITE frame is its whole
encoding. -/
def Obligations.EveryCommandFrameBeginsWithItsEncoding : Prop :=
  ∀ (bs : List Byte) (i : Instr), decode bs = .ok i →
    i.wellFormed = true ∧ encode i <+: bs ∧ ∀ block rest, i = .write block rest → encode i = bs

/-- R80, R83: words written out from the command map, least significant byte first and padded with zeros to eight bytes, decode
to their commands. That layout of a table word is the model's choice (log 12, DESIGN CHOICE); R80 gives bytes, FB[0] first. -/
def Obligations.TableWordsDecodeToTheirCommands : Prop :=
  decodeTableWord 8 0b00100110 = some .reqa ∧
  decodeTableWord 8 0b01010010 = some .wupa ∧
  decodeTableWord 16 0b0010000010010011 = some .anticollCl1 ∧
  decodeTableWord 16 0b0111000010010101 = some .selectCl2 ∧
  decodeTableWord 16 0b0000010000110000 = some (.read 0x04) ∧
  decodeTableWord 64 0x57780403020104A2 = some (.write 0x04 [0x01, 0x02, 0x03, 0x04, 0x78, 0x57]) ∧
  decodeTableWord 32 0b11001101010101110000000001010000 = some .hlta

/-! ## Dispatch -/

/-- A step at S_DISPATCH is `exec` of the command the received frame is, and "anything else" where it is none. -/
def Obligations.StepRunsTheDecodedCommand : Prop :=
  ∀ s : State, s.ctl = .dispatch →
    (∀ i, decodeFrame s.statics.hlta (received s) = .ok i → step s = exec i s) ∧
    (∀ e, decodeFrame s.statics.hlta (received s) = .error e → step s = .next (anythingElse s))

/-- R173: for an initialised block the dispatch step is the pseudocode of R173, arm by arm, over FB and RXBYTES. In the arms of
REQA, WUPA and SELECT_CL2 the step begins the transmission, and the assignment to PS after it is left for the end of the
transmission; that a step is cut there is log 1 (DEDUCED). -/
def Obligations.DispatchIsThePseudocode : Prop :=
  ∀ s : State, Built s → s.rxBytes ≤ Config.fbCap → s.ctl = .dispatch → step s = pseudoDispatch s

/-- R174: REQA. In IDLE with H = 0 it sends ATQA and, when the last of its 40 slots has been driven, PS becomes READY (that the
assignment is made in the step of that slot is log 1, DEDUCED); in any other state it is "anything else" (R82); every received
frame that begins with 26 is one. -/
def Obligations.ReqaAnswersAtqaOnlyWhenIdleAndNotHalted : Prop :=
  ∀ s : State, Built s →
    (s.ps = ⟨.idle, false⟩ → ∃ t, exec .reqa s = .next t ∧
      t = answering .atqa [0x44, 0x00] (some ⟨.ready, false⟩) s ∧ SameBytes s t ∧
      ∃ u : State, Host.Core.run Sys2Proof.core 40 t = .next u ∧ u.ps = ⟨.ready, false⟩ ∧ SameBytes s u) ∧
    (s.ps ≠ ⟨.idle, false⟩ → exec .reqa s = .next (anythingElse s)) ∧
    (s.ctl = .dispatch → s.rxBytes ≤ Config.fbCap → matchPattern s [0x26] = true → step s = exec .reqa s)

/-- R175: WUPA. In IDLE with H = 1 it sends ATQA and, when the last of its 40 slots has been driven, PS becomes READY_HALTED
(that the assignment is made in the step of that slot is log 1, DEDUCED); in any other state it is "anything else" (R82); every
received frame that begins with 52 is one. -/
def Obligations.WupaAnswersAtqaOnlyWhenHalted : Prop :=
  ∀ s : State, Built s →
    (s.ps = ⟨.idle, true⟩ → ∃ t, exec .wupa s = .next t ∧
      t = answering .atqa [0x44, 0x00] (some ⟨.ready, true⟩) s ∧ SameBytes s t ∧
      ∃ u : State, Host.Core.run Sys2Proof.core 40 t = .next u ∧ u.ps = ⟨.ready, true⟩ ∧ SameBytes s u) ∧
    (s.ps ≠ ⟨.idle, true⟩ → exec .wupa s = .next (anythingElse s)) ∧
    (s.ctl = .dispatch → s.rxBytes ≤ Config.fbCap → matchPattern s [0x52] = true → step s = exec .wupa s)

/-- R177: ANTICOLL_CL1. In READY, whatever H, it sends {88, u0, u1, u2, BCC} and changes no register but those of the
transmission. -/
def Obligations.AnticollCl1SendsTheFirstUidFrame : Prop :=
  ∀ s : State, Built s →
    (s.ps.phase = .ready → ∃ t, exec .anticollCl1 s = .next t ∧
      t = answering .ctUid1
        [0x88, s.params.uid[0], s.params.uid[1], s.params.uid[2],
          0x88 ^^^ s.params.uid[0] ^^^ s.params.uid[1] ^^^ s.params.uid[2]] none s ∧ SameBytes s t) ∧
    (s.ps.phase ≠ .ready → exec .anticollCl1 s = .next (anythingElse s)) ∧
    (s.ctl = .dispatch → s.rxBytes ≤ Config.fbCap → matchPattern s [0x93, 0x20] = true → step s = exec .anticollCl1 s)

/-- R178: ANTICOLL_CL2. In READY, whatever H and whatever was selected before, it sends {u3, u4, u5, u6, BCC}. -/
def Obligations.AnticollCl2SendsTheSecondUidFrame : Prop :=
  ∀ s : State, Built s →
    (s.ps.phase = .ready → ∃ t, exec .anticollCl2 s = .next t ∧
      t = answering .uid2
        [s.params.uid[3], s.params.uid[4], s.params.uid[5], s.params.uid[6],
          s.params.uid[3] ^^^ s.params.uid[4] ^^^ s.params.uid[5] ^^^ s.params.uid[6]] none s ∧ SameBytes s t) ∧
    (s.ps.phase ≠ .ready → exec .anticollCl2 s = .next (anythingElse s)) ∧
    (s.ctl = .dispatch → s.rxBytes ≤ Config.fbCap → matchPattern s [0x95, 0x20] = true → step s = exec .anticollCl2 s)

/-- R179: SELECT_CL1. In READY it sends SAK_NC {04 DA 17} for every frame that begins with 93 70, whatever follows; PS is
unchanged. -/
def Obligations.SelectCl1SendsSakNotComplete : Prop :=
  ∀ s : State, Built s →
    (s.ps.phase = .ready → ∃ t, exec .selectCl1 s = .next t ∧ t = answering .sakNc [0x04, 0xDA, 0x17] none s ∧
      SameBytes s t) ∧
    (s.ps.phase ≠ .ready → exec .selectCl1 s = .next (anythingElse s)) ∧
    (s.ctl = .dispatch → s.rxBytes ≤ Config.fbCap → matchPattern s [0x93, 0x70] = true → step s = exec .selectCl1 s)

/-- R180: SELECT_CL2. In READY it sends SAK_C {00 FE 51} and, when the last of its 58 slots has been driven, enters ACTIVE with H
kept (that the assignment is made in the step of that slot is log 1, DEDUCED), for every frame that begins with 95 70; in any
other phase it is "anything else" (R82). -/
def Obligations.SelectCl2SendsSakCompleteAndActivates : Prop :=
  ∀ s : State, Built s →
    (s.ps.phase = .ready → ∃ t, exec .selectCl2 s = .next t ∧
      t = answering .sakC [0x00, 0xFE, 0x51] (some ⟨.active, s.ps.halted⟩) s ∧ SameBytes s t ∧
      ∃ u : State, Host.Core.run Sys2Proof.core 58 t = .next u ∧ u.ps = ⟨.active, s.ps.halted⟩ ∧ SameBytes s u) ∧
    (s.ps.phase ≠ .ready → exec .selectCl2 s = .next (anythingElse s)) ∧
    (s.ctl = .dispatch → s.rxBytes ≤ Config.fbCap → matchPattern s [0x95, 0x70] = true → step s = exec .selectCl2 s)

/-- R182: READ. In ACTIVE it puts the sixteen storage bytes from offset 4*block on, and their CRC, into FB[0..17] and sends
them; an offset at or beyond STORAGE_SIZE reads as 0; nothing else changes. -/
def Obligations.ReadSendsSixteenStorageBytesAndTheirCrc : Prop :=
  ∀ (s : State) (block : Byte),
    (s.ps.phase = .active → ∃ t, exec (.read block) s = .next t ∧
      (∃ data : List Byte, data.length = 16 ∧
        (∀ i < 16, data.getD i 0 =
          if 4 * block.toNat + i < s.storageSize then byteAt s s.storageRef (4 * block.toNat + i) else 0x00) ∧
        (∀ i < 16, fbRead t i = data.getD i 0) ∧
        (fbRead t 16, fbRead t 17) = crc16 data ∧
        (∀ i, 18 ≤ i → fbRead t i = fbRead s i) ∧
        t = answering .fb (data ++ [(crc16 data).1, (crc16 data).2]) none { s with fb := t.fb }) ∧
      SameBytes s t) ∧
    (s.ps.phase ≠ .active → exec (.read block) s = .next (anythingElse s)) ∧
    (s.ctl = .dispatch → 2 ≤ s.rxBytes → s.rxBytes ≤ Config.fbCap → matchPattern s [0x30] = true →
      step s = exec (.read (fbRead s 1)) s)

/-- R183: WRITE. In ACTIVE a frame of eight bytes whose CRC is right stores d0..d3 at 4*block .. 4*block+3 where those lie
below STORAGE_SIZE, puts ACK into FB[0] and sends it; a frame of another length, or with another CRC, touches no storage byte,
puts NAK into FB[0] and sends it. No other storage byte, FB byte or register changes. Outside ACTIVE it is "anything else".
Every received frame of two bytes or more that begins with A2 is one. -/
def Obligations.WriteStoresAndSendsAckOrSendsNak : Prop :=
  ∀ s : State, Memory.wf s.storage = true →
    (∀ block d0 d1 d2 d3 : Byte, s.ps.phase = .active →
      ∃ t, exec (.write block [d0, d1, d2, d3, (crc16 [0xA2, block, d0, d1, d2, d3]).1,
          (crc16 [0xA2, block, d0, d1, d2, d3]).2]) s = .next t ∧
        (∀ i < 4, 4 * block.toNat + i < s.storageSize →
          byteAt t s.storageRef (4 * block.toNat + i) = [d0, d1, d2, d3].getD i 0) ∧
        (∀ ref off, ¬ (ref = s.storageRef ∧ 4 * block.toNat ≤ off ∧ off < 4 * block.toNat + 4 ∧ off < s.storageSize) →
          byteAt t ref off = byteAt s ref off) ∧
        fbRead t 0 = 0x0A ∧ (∀ i, 1 ≤ i → fbRead t i = fbRead s i) ∧
        t = answering .fb [0x0A] none { s with fb := t.fb, storage := t.storage }) ∧
    (∀ (block : Byte) (rest : List Byte), s.ps.phase = .active →
      (rest.length ≠ 6 ∨ crc16 (0xA2 :: block :: rest.take 4) ≠ (rest.getD 4 0, rest.getD 5 0)) →
      ∃ t, exec (.write block rest) s = .next t ∧ fbRead t 0 = 0x01 ∧ (∀ i, 1 ≤ i → fbRead t i = fbRead s i) ∧
        t = answering .fb [0x01] none { s with fb := t.fb } ∧ SameBytes s t) ∧
    (∀ (block : Byte) (rest : List Byte), s.ps.phase ≠ .active →
      exec (.write block rest) s = .next (anythingElse s)) ∧
    (s.ctl = .dispatch → 2 ≤ s.rxBytes → s.rxBytes ≤ Config.fbCap → matchPattern s [0xA2] = true →
      step s = exec (.write (fbRead s 1) ((received s).drop 2)) s)

/-- R184: HLTA. In ACTIVE, whatever H, nothing is sent and PS becomes (IDLE, 1); the frame is compared with all four bytes of
the static frame. -/
def Obligations.HltaHaltsSilently : Prop :=
  ∀ s : State, Built s →
    (s.ps.phase = .active → ∃ t, exec .hlta s = .next t ∧ t.ps = ⟨.idle, true⟩ ∧
      t = { s with ps := t.ps, ctl := t.ctl } ∧ t.ctl = (if s.retry = 0 then .done else .rx .drain) ∧ SameBytes s t) ∧
    (s.ps.phase ≠ .active → exec .hlta s = .next (anythingElse s)) ∧
    (s.ctl = .dispatch → s.rxBytes ≤ Config.fbCap → matchPattern s [0x50, 0x00, 0x57, 0xCD] = true →
      step s = exec .hlta s)

/-- R81, R176, R181, R185, R186: a frame, or no frame, that selects no row for the current phase changes nothing but the
control phase in IDLE; in READY, and in ACTIVE if it is not empty, the phase falls to IDLE with H kept; an empty frame in
ACTIVE changes nothing. Nothing is sent. -/
def Obligations.AnythingElseFallsBackByPhase : Prop :=
  ∀ s : State, Built s → s.rxBytes ≤ Config.fbCap → s.ctl = .dispatch → selectsNoRow s = true →
    ∃ t, step s = .next t ∧
      t = { s with ps := t.ps, ctl := (if s.retry = 0 then .done else .rx .drain) } ∧
      (s.ps.phase = .idle → t.ps = s.ps) ∧
      (s.ps.phase = .ready → t.ps = ⟨.idle, s.ps.halted⟩) ∧
      (s.ps.phase = .active → s.rxBytes ≠ 0 → t.ps = ⟨.idle, s.ps.halted⟩) ∧
      (s.ps.phase = .active → s.rxBytes = 0 → t.ps = s.ps)

/-- R187(a): FB bytes at and beyond RXBYTES cannot influence a dispatch. Two states that differ only there end in the same
way, in states that differ only in FB, and that send the same bytes. -/
def Obligations.StaleFrameBytesCannotInfluenceADispatch : Prop :=
  ∀ s t : State, s.ctl = .dispatch → SameButFb s t → (∀ i < s.rxBytes, fbRead t i = fbRead s i) →
    match step s, step t with
    | .next s', .next t' =>
      SameButFb s' t' ∧ (∀ i < s.rxBytes, fbRead t' i = fbRead s' i) ∧
        (s'.txSrc = .fb → s'.ctl.phase = .sTx → ∀ i < s'.txLen, fbRead t' i = fbRead s' i)
    | .fault _, .fault _ => True
    | .refused r, .refused r' => r = r'
    | _, _ => False

/-! ## Frame codecs and static frames -/

/-- R104(a), (b): appending the CRC makes the check succeed, and the CRC of a sequence with its CRC is zero. -/
def Obligations.AppendedCrcChecksAndLeavesNoResidue : Prop :=
  ∀ seq : List Byte,
    crcOk (seq ++ [(crc16 seq).1, (crc16 seq).2]) = true ∧ crc16 (seq ++ [(crc16 seq).1, (crc16 seq).2]) = (0x00, 0x00)

/-- R101: the shifting form and the byte-wise form of one CRC byte agree on every input. -/
def Obligations.CrcFormsAgree : Prop := ∀ (crc : CrcWord) (b : Byte), crcByte crc b = crcByteWise crc b

/-- R103: `crcOk` compares the CRC of all but the last two bytes with the last two, and is false below two bytes. -/
def Obligations.CrcOkComparesTheTrailer : Prop :=
  ∀ frame : List Byte, crcOk frame = true ↔
    2 ≤ frame.length ∧
      crc16 (frame.take (frame.length - 2)) = (frame.getD (frame.length - 2) 0, frame.getD (frame.length - 1) 0)

/-- R105, R211: the static frames `initialize` builds. -/
def Obligations.StaticFramesAreBuiltFromTheUid : Prop :=
  ∀ uid : Vector Byte 7,
    (buildStatics uid).atqa = [0x44, 0x00] ∧
    (buildStatics uid).ctUid1 = [(0x88 : Byte), uid[0], uid[1], uid[2], (0x88 : Byte) ^^^ uid[0] ^^^ uid[1] ^^^ uid[2]] ∧
    (buildStatics uid).uid2 = [uid[3], uid[4], uid[5], uid[6], uid[3] ^^^ uid[4] ^^^ uid[5] ^^^ uid[6]] ∧
    (buildStatics uid).sakNc = [0x04, 0xDA, 0x17] ∧
    (buildStatics uid).sakC = [0x00, 0xFE, 0x51] ∧
    (buildStatics uid).hlta = [0x50, 0x00, 0x57, 0xCD]

/-! ## Storage -/

/-- R54: a read in range gives the stored byte, any other 0, and a block read is four of them. -/
def Obligations.ReadBlockZeroFillsOutOfRange : Prop :=
  ∀ (s : State) (index : Nat), (readBlock s index).length = 4 ∧
    ∀ i < 4, (readBlock s index).getD i 0 =
      if 4 * index + i < s.storageSize then byteAt s s.storageRef (4 * index + i) else 0x00

/-- R55: a byte write in range is read back and leaves every other byte; a write out of range changes nothing at all. -/
def Obligations.ByteWriteIsReadBackOrDropped : Prop :=
  ∀ (s : State) (off : Nat) (v : Byte), Memory.wf s.storage = true →
    (off < s.storageSize → memRead (memWrite s off v) off = v) ∧
    (∀ ref off', ¬ (ref = s.storageRef ∧ off' = off) → byteAt (memWrite s off v) ref off' = byteAt s ref off') ∧
    (s.storageSize ≤ off → memWrite s off v = s) ∧
    memWrite s off v = { s with storage := (memWrite s off v).storage }

/-- R219: each of the four bytes of a block write is range-checked on its own; no other byte changes. -/
def Obligations.WriteBlockChecksEachByte : Prop :=
  ∀ (s : State) (index : Nat) (d0 d1 d2 d3 : Byte), Memory.wf s.storage = true →
    (∀ i < 4, 4 * index + i < s.storageSize →
      byteAt (writeBlock index [d0, d1, d2, d3] s) s.storageRef (4 * index + i) = [d0, d1, d2, d3].getD i 0) ∧
    (∀ ref off, ¬ (ref = s.storageRef ∧ 4 * index ≤ off ∧ off < 4 * index + 4 ∧ off < s.storageSize) →
      byteAt (writeBlock index [d0, d1, d2, d3] s) ref off = byteAt s ref off) ∧
    writeBlock index [d0, d1, d2, d3] s = { s with storage := (writeBlock index [d0, d1, d2, d3] s).storage }

/-- The canonical form: two canonical memories that read alike at every offset are the same list. -/
def Obligations.CanonicalMemoriesThatReadAlikeAreEqual : Prop :=
  ∀ a b : Memory, Memory.wf a = true → Memory.wf b = true → (∀ off, Memory.read a off = Memory.read b off) → a = b

/-! ## Miller decoder -/

/-- R126: SHORT up to TH1, MEDIUM up to TH2, LONG above; a threshold itself belongs to the shorter class. -/
def Obligations.GapClassesAreCutAtTheThresholds : Prop :=
  ∀ (p : Params) (t : Nat),
    (t ≤ 5 * p.tBit / 4 → gapExtra p t = 0) ∧
    (5 * p.tBit / 4 < t → t ≤ 7 * p.tBit / 4 → gapExtra p t = 1) ∧
    (7 * p.tBit / 4 < t → gapExtra p t = 2)

/-- R127, R26: the mask of slot 2k + 1 is bit k for the eight data bits; every other slot of a character has mask 0. -/
def Obligations.MaskTableHoldsTheDataBits : Prop :=
  (∀ k < 8, rxMask (2 * k + 1) = (1 : Byte) <<< k) ∧ ∀ slot < 18, (slot % 2 = 0 ∨ 16 ≤ slot) → rxMask slot = 0x00

/-- R122, R123: `rxMiller` drains the port first, then asks for an edge within one bit period again and again: an edge, whatever
its tick count, changes nothing but what the port operation writes, without a bound; a quiet period loads `c` and the wait for
the start edge begins. The answer is whatever the port gives, listed, late, silent or free. -/
def Obligations.DecoderDrainsThenWaitsForQuiet : Prop :=
  ∀ s : State,
    (s.ctl = .rx .drain → step s = .next { s with ctl := .rx .quiet, portLog := .drain :: s.portLog }) ∧
    (∀ w : State, s.ctl = .rx .quiet → w = btpWaitEdge s.params.tBit s →
      (∀ t, w.rxR = .edge t → step s = .next w) ∧
      (w.rxR = .quiet → step s = .next { w with rxC := s.params.rxTimeoutBits, ctl := .rx .start }))

/-- R124, R125: in the wait for the start edge the decoder asks for an edge within one bit period. An edge, whatever its tick
count, starts a frame at position 0 with FB[0] cleared; a quiet period counts `c` down; at 0 there is no frame, RXBYTES is 0, and
FB, HBITPOS, BYTEPOS and FDT_SEL are unchanged. The answer is whatever the port gives, listed, late, silent or free. -/
def Obligations.StartEdgeOrTimeoutEndsTheWait : Prop :=
  ∀ s w : State, s.ctl = .rx .start → w = btpWaitEdge s.params.tBit s →
    (∀ t, w.rxR = .edge t → ∃ u, step s = .next u ∧
      fbRead u 0 = 0x00 ∧ (∀ i, 1 ≤ i → fbRead u i = fbRead s i) ∧
      u = { w with fb := u.fb, hbitPos := 0, bytePos := 0, ctl := .rx .frame }) ∧
    (w.rxR = .quiet → 2 ≤ s.rxC → step s = .next { w with rxC := s.rxC - 1 }) ∧
    (w.rxR = .quiet → s.rxC = 1 → step s = .next { w with rxC := 0, rxBytes := 0, ctl := .count }) ∧
    (w.fb = s.fb ∧ w.hbitPos = s.hbitPos ∧ w.bytePos = s.bytePos ∧ w.fdtSel = s.fdtSel ∧ w.portDelay = s.portDelay)

/-- R128, R129: with the position counted as 18*BYTEPOS + HBITPOS, an edge advances it by 2 + e, ORs the mask of the slot it
falls in into the byte it falls in, clears every byte it enters, and changes no other byte of FB and no other register. -/
def Obligations.EdgeAdvancesByItsGapAndSetsItsSlot : Prop :=
  ∀ (s : State) (t : Nat), s.hbitPos ≤ 17 →
    18 * s.bytePos + s.hbitPos + gapExtra s.params t + 2 < 18 * Config.fbCap →
    ∃ u, rxEdge t s = .next u ∧ u.hbitPos ≤ 17 ∧
      18 * u.bytePos + u.hbitPos = 18 * s.bytePos + s.hbitPos + gapExtra s.params t + 2 ∧
      (∀ j < Config.fbCap, fbRead u j =
        (let slot := 18 * s.bytePos + s.hbitPos + gapExtra s.params t
         if j = slot / 18 then (if s.bytePos < j then 0x00 else fbRead s j) ||| rxMask (slot % 18)
         else if slot / 18 < j ∧ j ≤ u.bytePos then 0x00
         else fbRead s j)) ∧
      u = { s with fb := u.fb, hbitPos := u.hbitPos, bytePos := u.bytePos, rxT := t, rxE := gapExtra s.params t }

/-- R134: an edge whose advance would need the byte at index FB_CAP is refused as an overrun, and no other edge is. -/
def Obligations.OverrunIsRefusedExactlyAtTheCapacity : Prop :=
  ∀ (s : State) (t : Nat), s.hbitPos ≤ 17 → s.bytePos < Config.fbCap →
    (rxEdge t s = .refused .rxOverrun ↔
      18 * Config.fbCap ≤ 18 * s.bytePos + s.hbitPos + gapExtra s.params t + 2)

/-- R130, R132, R133: inside a frame the decoder asks for an edge within TH3; an edge is processed; Quiet ends the frame: FDT_SEL
is the last bit, the port is told, and RXBYTES is BYTEPOS + [HBITPOS > 7]. The answer is whatever the port gives, listed, late,
silent or free. -/
def Obligations.QuietEndsTheFrame : Prop :=
  ∀ s w : State, s.ctl = .rx .frame → w = btpWaitEdge (9 * s.params.tBit / 4) s →
    (∀ t, w.rxR = .edge t → t ≤ 9 * s.params.tBit / 4 ∧ step s = rxEdge t w) ∧
    (w.rxR = .quiet → step s = .next { w with
      fdtSel := decide (s.hbitPos % 2 = 1), portDelay := some (decide (s.hbitPos % 2 = 1)),
      rxBytes := s.bytePos + (if 7 < s.hbitPos then 1 else 0), ctl := .count,
      portLog := .setReplyDelay (decide (s.hbitPos % 2 = 1)) :: w.portLog })

/-- R121: a step of `rxMiller` writes FB, RXBYTES, HBITPOS, BYTEPOS, FDT_SEL, its temporaries, the control phase and what
belongs to the port, and nothing else: not PS, RETRY, the static frames, storage or MOD. -/
def Obligations.DecoderWritesOnlyItsRegisters : Prop :=
  ∀ (s u : State) (p : RxPoint), s.ctl = .rx p → step s = .next u →
    u = { s with
      fb := u.fb, rxBytes := u.rxBytes, hbitPos := u.hbitPos, bytePos := u.bytePos, fdtSel := u.fdtSel, rxT := u.rxT,
      rxE := u.rxE, rxC := u.rxC, rxR := u.rxR, ctl := u.ctl, portDelay := u.portDelay, edgeIn := u.edgeIn,
      freeCount := u.freeCount, portLog := u.portLog }

/-- R135: a frame of m bits in modified Miller code, with gaps measured exactly, decodes to its bits: bit 9j + k is bit k of
FB[j], positions past m are 0, parity positions are stored nowhere, FDT_SEL is the last bit, RXBYTES is as in R133. -/
def Obligations.MillerFramesDecodeToTheirBits : Prop :=
  ∀ (s : State) (bits : List Bool) (start : Nat) (q : List PortAnswer),
    bits ≠ [] → bits.length ≤ 9 * 63 + 7 → 8 ≤ s.params.tBit → s.params.tBit % 2 = 0 → s.ctl = .rx .start →
    start ≤ s.params.tBit → s.edgeIn = gapTrace s.params.tBit start (readerGaps bits) ++ q →
    ∃ u : State, Host.Core.run Sys2Proof.core ((readerGaps bits).length + 2) s = .next u ∧ u.ctl = .count ∧ u.edgeIn = q ∧
      18 * u.bytePos + u.hbitPos = 2 * bits.length + (if bits.getLastD false then 1 else 2) ∧ u.hbitPos ≤ 17 ∧
      (∀ j k, j ≤ u.bytePos → k < 8 → (fbRead u j).getLsbD k = bits.getD (9 * j + k) false) ∧
      (∀ j, u.bytePos < j → fbRead u j = fbRead s j) ∧
      u.fdtSel = bits.getLastD false ∧ u.rxBytes = u.bytePos + (if 7 < u.hbitPos then 1 else 0)

/-- R135, R133: a standard frame of 1 to 63 bytes decodes to exactly those bytes, whatever its parity bits are. -/
def Obligations.StandardFramesDecodeToTheirBytes : Prop :=
  ∀ (s : State) (cs : List (Byte × Bool)) (start : Nat) (q : List PortAnswer),
    cs ≠ [] → cs.length ≤ 63 → 8 ≤ s.params.tBit → s.params.tBit % 2 = 0 → s.ctl = .rx .start →
    start ≤ s.params.tBit → s.edgeIn = gapTrace s.params.tBit start (readerGaps (characterBits cs)) ++ q →
    ∃ u : State, Host.Core.run Sys2Proof.core ((readerGaps (characterBits cs)).length + 2) s = .next u ∧
      u.ctl = .count ∧ u.rxBytes = cs.length ∧ received u = cs.map Prod.fst

/-- R135, R133: a short frame of seven bits decodes to one byte with bit 7 clear. -/
def Obligations.ShortFramesDecodeToOneByte : Prop :=
  ∀ (s : State) (b : Byte) (start : Nat) (q : List PortAnswer),
    8 ≤ s.params.tBit → s.params.tBit % 2 = 0 → s.ctl = .rx .start → start ≤ s.params.tBit →
    s.edgeIn = gapTrace s.params.tBit start (readerGaps (shortBits b)) ++ q →
    ∃ u : State, Host.Core.run Sys2Proof.core ((readerGaps (shortBits b)).length + 2) s = .next u ∧
      u.ctl = .count ∧ u.rxBytes = 1 ∧ received u = [b &&& 0x7F]

/-! ## The Bit-Timing Port -/

/-- R254: an edge the port reports lies within the deadline, whatever answers are to come; the operation is recorded, and the
call writes nothing of the block but the answer. -/
def Obligations.ReportedEdgesLieWithinTheDeadline : Prop :=
  ∀ (d : Nat) (s : State),
    (∀ t, (btpWaitEdge d s).rxR = .edge t → t ≤ d) ∧
    (btpWaitEdge d s).portLog = .waitEdge d (btpWaitEdge d s).rxR :: s.portLog ∧
    btpWaitEdge d s = { s with rxR := (btpWaitEdge d s).rxR, edgeIn := (btpWaitEdge d s).edgeIn,
                               freeCount := (btpWaitEdge d s).freeCount, portLog := (btpWaitEdge d s).portLog }

/-- R252, R254, with the lists of log 2 and the free answers of log 3 (the model's own, DESIGN CHOICE): what `waitEdge(D)`
answers. A listed edge within the deadline is reported and used up; a later one is Quiet and stays listed, counted from the
deadline; a listed Quiet is reported and used up; beyond the list it is Quiet where silence is given, else a free answer, Quiet
where that lies beyond the deadline. And what `carrier` answers. -/
def Obligations.PortAnswersAreListedThenSilentOrFree : Prop :=
  ∀ (d : Nat) (s : State),
    (∀ t q, s.edgeIn = .edge t :: q → t ≤ d → (btpWaitEdge d s).rxR = .edge t ∧ (btpWaitEdge d s).edgeIn = q) ∧
    (∀ t q, s.edgeIn = .edge t :: q → d < t →
      (btpWaitEdge d s).rxR = .quiet ∧ (btpWaitEdge d s).edgeIn = .edge (t - d) :: q) ∧
    (∀ q, s.edgeIn = .quiet :: q → (btpWaitEdge d s).rxR = .quiet ∧ (btpWaitEdge d s).edgeIn = q) ∧
    (s.edgeIn ≠ [] ∨ s.quietAfter = true → (btpWaitEdge d s).freeCount = s.freeCount) ∧
    (s.edgeIn = [] → s.quietAfter = true → (btpWaitEdge d s).rxR = .quiet ∧ (btpWaitEdge d s).edgeIn = []) ∧
    (s.edgeIn = [] → s.quietAfter = false →
      (btpWaitEdge d s).edgeIn = [] ∧ (btpWaitEdge d s).freeCount = s.freeCount + 1 ∧
      ∀ t, (btpWaitEdge d s).rxR = .edge t ↔ Config.freeEdge s.freeCount = some t ∧ t ≤ d) ∧
    (∀ b q, s.carrierIn = b :: q → (btpCarrier s).1 = b ∧ (btpCarrier s).2.carrierIn = q ∧
      (btpCarrier s).2.freeCount = s.freeCount) ∧
    (s.carrierIn = [] → (btpCarrier s).1 = Config.freeCarrier s.freeCount ∧ (btpCarrier s).2.carrierIn = [] ∧
      (btpCarrier s).2.freeCount = s.freeCount + 1)

/-- R152, R255, R256: the first slot after `setReplyDelay(b)` waits FDT_TICKS[b], the next half a bit period; each of the two
then drives the line, and nothing else changes. That a slot is recorded with its ticks is log 11 (DESIGN CHOICE). -/
def Obligations.FirstSlotWaitsTheReplyDelay : Prop :=
  ∀ (s : State) (b v w : Bool),
    emit v (btpSetReplyDelay b s) = { s with
      modLine := v, portDelay := none,
      portLog := .waitSlot (if b then s.params.fdtTicks1 else s.params.fdtTicks0) :: .setReplyDelay b :: s.portLog } ∧
    emit w (emit v s) = { emit v s with
      modLine := w, portLog := .waitSlot (s.params.tBit / 2) :: (emit v s).portLog }

/-! ## Manchester encoder -/

/-- R154, R155, R156: the slots of a byte are its bits, least significant first, then its parity bit, each as (b, not b). -/
def Obligations.ByteSlotsAreItsBitsAndParity : Prop :=
  ∀ (seed : Bool) (b : Byte), (slotsOfByte seed b).length = 18 ∧
    (∀ k < 8, (slotsOfByte seed b).getD (2 * k) false = b.getLsbD k ∧
      (slotsOfByte seed b).getD (2 * k + 1) false = !b.getLsbD k) ∧
    (slotsOfByte seed b).getD 16 false = (List.range 8).foldl (fun p k => xor p (b.getLsbD k)) seed ∧
    (slotsOfByte seed b).getD 17 false = !(slotsOfByte seed b).getD 16 false

/-- R158, R161(a) to (c): a frame of n bytes has 18n + 4 slots; it begins with DRIVE and ends with two RELEASE slots; every
bit period but the last holds one DRIVE and one RELEASE; bit j of the frame, data and parity bits counted after the SOC, is the
state of slot 2 + 2j. -/
def Obligations.FrameSlotsAreManchester : Prop :=
  ∀ (seed : Bool) (bs : List Byte),
    (slotsOfFrame seed bs).length = 18 * bs.length + 4 ∧
    (slotsOfFrame seed bs).head? = some true ∧
    (slotsOfFrame seed bs).drop (18 * bs.length + 2) = [false, false] ∧
    (∀ j < 9 * bs.length + 1, (slotsOfFrame seed bs).getD (2 * j + 1) false = !(slotsOfFrame seed bs).getD (2 * j) false) ∧
    (∀ j < bs.length, ∀ k < 8, (slotsOfFrame seed bs).getD (2 + 2 * (9 * j + k)) false = (bs.getD j 0).getLsbD k) ∧
    (∀ j < bs.length, (slotsOfFrame seed bs).getD (2 + 2 * (9 * j + 8)) false = parityBit seed (bs.getD j 0))

/-- R152, R158, R160: a call of `txManchester(buf, n)` appends one record to TXLOG, FDT_SEL at the call, the bytes and their
slots, and changes nothing else but its arguments and the control phase; then it drives the line through exactly the slots of
that record, one a step, with one `waitSlot` each, the first after the programmed delay and the others half a bit period apart;
then, in the step of the last slot (log 1, DEDUCED), PS gets the value the command assigns after it, if any, and the cycle ends.
FB, storage, and everything but its own
registers, MOD, PS and the port are as they were. -/
def Obligations.EncoderDrivesTheRecordedSlots : Prop :=
  ∀ (s : State) (src : TxSrc) (n : Nat) (after : Option ProtState), 1 ≤ n → n ≤ (srcBytes s src).length →
    ∃ (s0 : State) (r : TxRecord), txManchester src n after s = .next s0 ∧
      s0 = answering src ((srcBytes s src).take n) after s ∧
      s0.txLog = s.txLog ++ [r] ∧ r.fdtSel = s.fdtSel ∧ r.bytes = (srcBytes s src).take n ∧ r.slots.length = 18 * n + 4 ∧
      (∀ k < 18 * n + 4, ∃ u : State, Host.Core.run Sys2Proof.core (k + 1) s0 = .next u ∧
        u.modLine = r.slots.getD k false ∧ (k + 1 < 18 * n + 4 → u.ctl.phase = .sTx ∧ u.ps = s.ps)) ∧
      (∃ u : State, Host.Core.run Sys2Proof.core (18 * n + 4) s0 = .next u ∧
        u.ps = after.getD s.ps ∧
        u.portLog =
          List.replicate (18 * n + 3) (.waitSlot (s.params.tBit / 2)) ++ .waitSlot (slotTicks s) :: s.portLog ∧
        u = { endCycle s0 with
          modLine := false, par := u.par, txI := u.txI, txK := u.txK, ps := u.ps, psAfter := none, portDelay := none,
          portLog := u.portLog })

/-- R150, R174, R175, R180: a step of `txManchester` writes MOD, PAR, TXI, TXK, the control phase and what belongs to the port,
and nothing else, but that the step of the last slot also makes the assignment to PS its command owes (log 1, DEDUCED: it is made
in that step). -/
def Obligations.EncoderWritesOnlyItsRegisters : Prop :=
  ∀ (s u : State) (sym : TxSym) (second : Bool), s.ctl = .tx sym second → step s = .next u →
    u = { s with
      modLine := u.modLine, par := u.par, txI := u.txI, txK := u.txK, ctl := u.ctl, portDelay := u.portDelay,
      portLog := u.portLog, ps := u.ps, psAfter := u.psAfter } ∧
    (¬ (sym = .eoc ∧ second = true) → u.ps = s.ps ∧ u.psAfter = s.psAfter) ∧
    (sym = .eoc ∧ second = true → u.ps = s.psAfter.getD s.ps ∧ u.psAfter = none)

/-- R161(d): the falling transitions of the encoder's slots, under the adapter, are the pauses of the same characters in
modified Miller code. -/
def Obligations.AdaptedSlotsAreReaderGaps : Prop :=
  ∀ (seed : Bool) (bs : List Byte),
    adapterGaps (slotsOfFrame seed bs) = readerGaps (characterBits (bs.map (fun b => (b, parityBit seed b))))

/-- R161(d): encoding bytes and decoding the edge trace of the slots gives the bytes back, for either parity seed. -/
def Obligations.EncodedFramesDecodeToTheirBytes : Prop :=
  ∀ (s : State) (seed : Bool) (bs : List Byte) (start : Nat) (q : List PortAnswer),
    bs ≠ [] → bs.length ≤ 63 → 8 ≤ s.params.tBit → s.params.tBit % 2 = 0 → s.ctl = .rx .start →
    start ≤ s.params.tBit → s.edgeIn = gapTrace s.params.tBit start (adapterGaps (slotsOfFrame seed bs)) ++ q →
    ∃ u : State, Host.Core.run Sys2Proof.core ((adapterGaps (slotsOfFrame seed bs)).length + 2) s = .next u ∧
      u.ctl = .count ∧ u.rxBytes = bs.length ∧ received u = bs

/-! ## Entry points and the service loop -/

/-- R210, R211, R261, R266: `initialize`, the first time or again, leaves the registers at the values of R261, and changes no
register but those; from a good state it touches no storage byte, of the region it binds or of any other. That it empties TXLOG
again the second time, although R44 calls it append-only, is log 9 (DEDUCED); that it keeps what R261 leaves unspecified is log 17
(DESIGN CHOICE). -/
def Obligations.InitializeSetsTheResetValues : Prop :=
  ∀ (s : State) (ref size : Nat) (q : List HostCall), s.ctl = .done → s.hostIn = .initBlock ref size :: q →
    ∃ u, step s = .next u ∧ u.storageRef = ref ∧ u.storageSize = size ∧ u.statics = buildStatics s.params.uid ∧
      u.ps = ⟨.idle, false⟩ ∧ u.rxBytes = 0 ∧ u.fdtSel = false ∧ u.hbitPos = 0 ∧ u.bytePos = 0 ∧ u.modLine = false ∧
      u.initDone = true ∧ u.txLog = [] ∧
      u = { s with
        storageRef := u.storageRef, storageSize := u.storageSize, statics := u.statics, ps := u.ps, rxBytes := u.rxBytes,
        fdtSel := u.fdtSel, hbitPos := u.hbitPos, bytePos := u.bytePos, modLine := u.modLine, initDone := u.initDone,
        txLog := u.txLog, storage := u.storage, unbound := u.unbound, hostIn := q } ∧
      (Inv s → SameBytes s u)

/-- R220, R221, R267: the host's actions when the block is at rest. Storing a byte makes that byte of that region read as the
value, leaves every other byte of every region, and changes no register; a call of `serviceReader` goes to its carrier test and
changes nothing else, and with no action listed the host makes that call (log 4, DESIGN CHOICE: the list). -/
def Obligations.HostActionsStoreBytesAndCallTheService : Prop :=
  ∀ s : State, Inv s → s.ctl = .done →
    (∀ ref off v q, s.hostIn = .storeByte ref off v :: q → ∃ u, step s = .next u ∧ byteAt u ref off = v ∧
      (∀ ref' off', ¬ (ref' = ref ∧ off' = off) → byteAt u ref' off' = byteAt s ref' off') ∧
      u = { s with storage := u.storage, unbound := u.unbound, hostIn := q }) ∧
    (∀ q, s.hostIn = .serviceReader :: q → step s = .next { s with hostIn := q, ctl := .check }) ∧
    (s.hostIn = [] → step s = .next { s with ctl := .check })

/-- R212(a), (b), R252: the carrier is asked for at the entry. Without it the call returns and keeps every register; with it
RETRY is 8 and the first decode begins. The answer is whatever the port gives, listed or free; the question writes nothing but
what belongs to the port. -/
def Obligations.ServiceReaderTestsTheCarrierAtEntry : Prop :=
  ∀ s w : State, s.ctl = .check → s.initDone = true → w = (btpCarrier s).2 →
    ((btpCarrier s).1 = true → step s = .next { w with retry := 8, ctl := .rx .drain }) ∧
    ((btpCarrier s).1 = false → step s = .next { w with ctl := .done }) ∧
    w = { s with carrierIn := w.carrierIn, freeCount := w.freeCount, portLog := .carrier (btpCarrier s).1 :: s.portLog }

/-- R212, R240(3): `serviceReader` before `initialize` is refused. -/
def Obligations.ServiceReaderBeforeInitializeIsRefused : Prop :=
  ∀ s : State, s.ctl = .check → s.initDone = false → step s = .refused .notInitialized

/-- R212(d), (e): RETRY is decremented exactly for an empty frame, and the dispatcher runs in either case. -/
def Obligations.RetryCountsEmptyFramesOnly : Prop :=
  ∀ s : State, s.ctl = .count →
    step s = .next { s with retry := (if s.rxBytes = 0 then s.retry - 1 else s.retry), ctl := .dispatch }

/-- R213, R216: a call that hears nothing makes eight decoder timeouts and returns. Nothing is sent, no storage byte changes,
PS is unchanged but for READY, which falls to IDLE with H kept; FB is unchanged. -/
def Obligations.SilentCallReturnsAfterEightTimeouts : Prop :=
  ∀ (s : State) (q : List Bool), s.ctl = .check → s.initDone = true → 1 ≤ s.params.rxTimeoutBits →
    s.carrierIn = true :: q → s.edgeIn = [] → s.quietAfter = true →
    ∃ u : State, Host.Core.run Sys2Proof.core (1 + 8 * (s.params.rxTimeoutBits + 4)) s = .next u ∧ u.ctl = .done ∧
      u.retry = 0 ∧ u.rxBytes = 0 ∧ u.txLog = s.txLog ∧ SameBytes s u ∧ u.fb = s.fb ∧ u.fdtSel = s.fdtSel ∧
      u.ps = (if s.ps.phase = .ready then ⟨.idle, s.ps.halted⟩ else s.ps)

/-- R276, R214: every `serviceReader` call returns under A1 and A2. From any state of a call that is refused nowhere, with every
run of `Edge` answers finite and, from some step of the call on, no decode that returns a frame, the block comes to rest. Nothing
else is assumed of the port's answers, and the model bounds no loop on its own. -/
def Obligations.ServiceCallsReturnUnderTheEnvironmentAssumptions : Prop :=
  ∀ path : Nat → State, IsCall path → FiniteEdgeRuns path → FinitelyManyFrames path → ∃ k, (path k).ctl = .done

/-- R29, R61: the control phases follow the service sequence. A decode is over before the dispatcher runs, the dispatcher
before a transmission, and a transmission before the next decode. -/
def Obligations.ControlPhasesFollowTheServiceSequence : Prop :=
  ∀ s u : State, step s = .next u →
    match s.ctl.phase, u.ctl.phase with
    | .sDone, .sDone => True
    | .sDone, .sCheck => True
    | .sCheck, .sDone => True
    | .sCheck, .sRx => True
    | .sRx, .sRx => True
    | .sRx, .sDispatch => s.ctl ≠ .rx .drain ∧ u.ctl = .count
    | .sDispatch, .sDispatch => s.ctl = .count ∧ u.ctl = .dispatch
    | .sDispatch, .sTx => s.ctl = .dispatch ∧ u.ctl = .tx .soc false
    | .sDispatch, .sRx => s.ctl = .dispatch ∧ u.ctl = .rx .drain ∧ u.retry ≠ 0
    | .sDispatch, .sDone => s.ctl = .dispatch ∧ u.retry = 0
    | .sTx, .sTx => True
    | .sTx, .sRx => s.ctl = .tx .eoc true ∧ u.ctl = .rx .drain ∧ u.retry ≠ 0
    | .sTx, .sDone => s.ctl = .tx .eoc true ∧ u.retry = 0
    | _, _ => False

/-! ## Whole-machine rules -/

/-- The state right after reset meets the invariant. -/
def Obligations.ResetMeetsTheInvariant : Prop := Inv State.reset

/-- Every step from a state that meets the invariant ends in one that meets it. -/
def Obligations.EveryStepKeepsTheInvariant : Prop :=
  ∀ s u : State, Inv s → step s = .next u → Inv u

/-- R31, R170, R189: PS is written by the commands the dispatcher runs and by `initialize` alone, and only along the rows of the
transition relation: IDLE to READY, HALT to READY_HALTED and READY to ACTIVE at the end of the answer to REQA, WUPA and
SELECT_CL2 (in the step of its last slot, log 1, DEDUCED), the frame received being that command; back to IDLE with H kept by a frame, or in READY by none, that matches no row
of the phase; to HALT by HLTA. -/
def Obligations.ProtocolStateMovesOnlyAlongTheTable : Prop :=
  ∀ s u : State, Inv s → step s = .next u → u.ps ≠ s.ps →
    (s.ctl = .done ∧ u.ps = ⟨.idle, false⟩ ∧ ∃ ref size q, s.hostIn = .initBlock ref size :: q) ∨
    (s.ctl = .tx .eoc true ∧
      ((s.ps = ⟨.idle, false⟩ ∧ decodeFrame s.statics.hlta (received s) = .ok .reqa ∧ u.ps = ⟨.ready, false⟩) ∨
       (s.ps = ⟨.idle, true⟩ ∧ decodeFrame s.statics.hlta (received s) = .ok .wupa ∧ u.ps = ⟨.ready, true⟩) ∨
       (s.ps.phase = .ready ∧ decodeFrame s.statics.hlta (received s) = .ok .selectCl2 ∧
        u.ps = ⟨.active, s.ps.halted⟩))) ∨
    (s.ctl = .dispatch ∧
      ((s.ps.phase = .ready ∧ selectsNoRow s = true ∧ u.ps = ⟨.idle, s.ps.halted⟩) ∨
       (s.ps.phase = .active ∧ s.rxBytes ≠ 0 ∧ selectsNoRow s = true ∧ u.ps = ⟨.idle, s.ps.halted⟩) ∨
       (s.ps.phase = .active ∧ decodeFrame s.statics.hlta (received s) = .ok .hlta ∧ u.ps = ⟨.idle, true⟩)))

/-- R172, R187(c): from a good state, H goes from 1 to 0 only in `initialize`, and from 0 to 1 only in HLTA. -/
def Obligations.HaltedFlagIsSetByHltaAndClearedByInitialize : Prop :=
  ∀ s u : State, Inv s → step s = .next u →
    (s.ps.halted = true → u.ps.halted = false →
      s.ctl = .done ∧ ∃ ref size q, s.hostIn = .initBlock ref size :: q) ∧
    (s.ps.halted = false → u.ps.halted = true →
      s.ctl = .dispatch ∧ s.ps.phase = .active ∧ decodeFrame s.statics.hlta (received s) = .ok .hlta)

/-- R187(e), R220, R247: a storage byte changes only in phase ACTIVE by an accepted WRITE, inside its block and below
STORAGE_SIZE, or by the host between calls. -/
def Obligations.StorageChangesOnlyByAcceptedWriteOrHost : Prop :=
  ∀ (s u : State) (ref off : Nat), Inv s → step s = .next u → byteAt u ref off ≠ byteAt s ref off →
    (s.ctl = .dispatch ∧ s.ps.phase = .active ∧ ref = s.storageRef ∧ off < s.storageSize ∧
      ∃ block rest, decodeFrame s.statics.hlta (received s) = .ok (.write block rest) ∧ rest.length = 6 ∧
        crcOk (0xA2 :: block :: rest) = true ∧ 4 * block.toNat ≤ off ∧ off < 4 * block.toNat + 4 ∧
        byteAt u ref off = rest.getD (off - 4 * block.toNat) 0) ∨
    (s.ctl = .done ∧ ∃ v q, s.hostIn = .storeByte ref off v :: q ∧ byteAt u ref off = v)

/-- R64, R187(f): no step but `initialize` changes a static frame, and no step changes a parameter. -/
def Obligations.StaticFramesAndParametersAreReadOnly : Prop :=
  ∀ s u : State, step s = .next u →
    u.params = s.params ∧
    (u.statics ≠ s.statics → s.ctl = .done ∧ u.statics = buildStatics s.params.uid ∧
      ∃ ref size q, s.hostIn = .initBlock ref size :: q)

/-- R187(d), R170: a step begins at most one transmission, and only a dispatch of a frame of one byte or more does; TXLOG
otherwise only starts anew at `initialize` (R261, R266); that it does so the second time too, although R44 calls it append-only, is
log 9 (DEDUCED). -/
def Obligations.AtMostOneFrameIsSentPerDispatch : Prop :=
  ∀ s u : State, step s = .next u → u.txLog ≠ s.txLog →
    (s.ctl = .dispatch ∧ s.rxBytes ≠ 0 ∧ ∃ r : TxRecord, u.txLog = s.txLog ++ [r] ∧ r.fdtSel = s.fdtSel ∧
      r.slots = slotsOfFrame s.params.paritySeed r.bytes) ∨
    (s.ctl = .done ∧ u.txLog = [] ∧ ∃ ref size q, s.hostIn = .initBlock ref size :: q)

/-- R230, R240: no step faults, and a step from a good state is refused only as an overrun of the decoder inside a frame or as
a call before `initialize`. -/
def Obligations.OnlyTheListedRefusalsOccur : Prop :=
  ∀ s : State, (∀ f, step s ≠ .fault f) ∧
    (Inv s → ∀ r, step s = .refused r →
      (r = .rxOverrun ∧ s.ctl = .rx .frame) ∨ (r = .notInitialized ∧ s.ctl = .check ∧ s.initDone = false))
end

