-- ==== Sys2Proof/Laws/State.lean ====
section
/-! SUPPORT. What each named update of the state does to each field: one lemma per update and field, each by `rfl`, so that no
later proof unfolds a record update. -/

namespace Sys2Proof.Machine

variable (s : State)

@[simp] theorem setPs_params (p : ProtState) : (s.setPs p).params = s.params := rfl
@[simp] theorem setPs_fb (p : ProtState) : (s.setPs p).fb = s.fb := rfl
@[simp] theorem setPs_rxBytes (p : ProtState) : (s.setPs p).rxBytes = s.rxBytes := rfl
@[simp] theorem setPs_hbitPos (p : ProtState) : (s.setPs p).hbitPos = s.hbitPos := rfl
@[simp] theorem setPs_bytePos (p : ProtState) : (s.setPs p).bytePos = s.bytePos := rfl
@[simp] theorem setPs_rxT (p : ProtState) : (s.setPs p).rxT = s.rxT := rfl
@[simp] theorem setPs_rxE (p : ProtState) : (s.setPs p).rxE = s.rxE := rfl
@[simp] theorem setPs_rxC (p : ProtState) : (s.setPs p).rxC = s.rxC := rfl
@[simp] theorem setPs_rxR (p : ProtState) : (s.setPs p).rxR = s.rxR := rfl
@[simp] theorem setPs_txI (p : ProtState) : (s.setPs p).txI = s.txI := rfl
@[simp] theorem setPs_txK (p : ProtState) : (s.setPs p).txK = s.txK := rfl
@[simp] theorem setPs_par (p : ProtState) : (s.setPs p).par = s.par := rfl
@[simp] theorem setPs_txSrc (p : ProtState) : (s.setPs p).txSrc = s.txSrc := rfl
@[simp] theorem setPs_txLen (p : ProtState) : (s.setPs p).txLen = s.txLen := rfl
@[simp] theorem setPs_psAfter (p : ProtState) : (s.setPs p).psAfter = s.psAfter := rfl
@[simp] theorem setPs_ps (p : ProtState) : (s.setPs p).ps = p := rfl
@[simp] theorem setPs_retry (p : ProtState) : (s.setPs p).retry = s.retry := rfl
@[simp] theorem setPs_fdtSel (p : ProtState) : (s.setPs p).fdtSel = s.fdtSel := rfl
@[simp] theorem setPs_statics (p : ProtState) : (s.setPs p).statics = s.statics := rfl
@[simp] theorem setPs_storageRef (p : ProtState) : (s.setPs p).storageRef = s.storageRef := rfl
@[simp] theorem setPs_storageSize (p : ProtState) : (s.setPs p).storageSize = s.storageSize := rfl
@[simp] theorem setPs_initDone (p : ProtState) : (s.setPs p).initDone = s.initDone := rfl
@[simp] theorem setPs_modLine (p : ProtState) : (s.setPs p).modLine = s.modLine := rfl
@[simp] theorem setPs_ctl (p : ProtState) : (s.setPs p).ctl = s.ctl := rfl
@[simp] theorem setPs_storage (p : ProtState) : (s.setPs p).storage = s.storage := rfl
@[simp] theorem setPs_unbound (p : ProtState) : (s.setPs p).unbound = s.unbound := rfl
@[simp] theorem setPs_txLog (p : ProtState) : (s.setPs p).txLog = s.txLog := rfl
@[simp] theorem setPs_portDelay (p : ProtState) : (s.setPs p).portDelay = s.portDelay := rfl
@[simp] theorem setPs_carrierIn (p : ProtState) : (s.setPs p).carrierIn = s.carrierIn := rfl
@[simp] theorem setPs_edgeIn (p : ProtState) : (s.setPs p).edgeIn = s.edgeIn := rfl
@[simp] theorem setPs_quietAfter (p : ProtState) : (s.setPs p).quietAfter = s.quietAfter := rfl
@[simp] theorem setPs_freeCount (p : ProtState) : (s.setPs p).freeCount = s.freeCount := rfl
@[simp] theorem setPs_hostIn (p : ProtState) : (s.setPs p).hostIn = s.hostIn := rfl
@[simp] theorem setPs_portLog (p : ProtState) : (s.setPs p).portLog = s.portLog := rfl

@[simp] theorem setCtl_params (c : Ctl) : (s.setCtl c).params = s.params := rfl
@[simp] theorem setCtl_fb (c : Ctl) : (s.setCtl c).fb = s.fb := rfl
@[simp] theorem setCtl_rxBytes (c : Ctl) : (s.setCtl c).rxBytes = s.rxBytes := rfl
@[simp] theorem setCtl_hbitPos (c : Ctl) : (s.setCtl c).hbitPos = s.hbitPos := rfl
@[simp] theorem setCtl_bytePos (c : Ctl) : (s.setCtl c).bytePos = s.bytePos := rfl
@[simp] theorem setCtl_rxT (c : Ctl) : (s.setCtl c).rxT = s.rxT := rfl
@[simp] theorem setCtl_rxE (c : Ctl) : (s.setCtl c).rxE = s.rxE := rfl
@[simp] theorem setCtl_rxC (c : Ctl) : (s.setCtl c).rxC = s.rxC := rfl
@[simp] theorem setCtl_rxR (c : Ctl) : (s.setCtl c).rxR = s.rxR := rfl
@[simp] theorem setCtl_txI (c : Ctl) : (s.setCtl c).txI = s.txI := rfl
@[simp] theorem setCtl_txK (c : Ctl) : (s.setCtl c).txK = s.txK := rfl
@[simp] theorem setCtl_par (c : Ctl) : (s.setCtl c).par = s.par := rfl
@[simp] theorem setCtl_txSrc (c : Ctl) : (s.setCtl c).txSrc = s.txSrc := rfl
@[simp] theorem setCtl_txLen (c : Ctl) : (s.setCtl c).txLen = s.txLen := rfl
@[simp] theorem setCtl_psAfter (c : Ctl) : (s.setCtl c).psAfter = s.psAfter := rfl
@[simp] theorem setCtl_ps (c : Ctl) : (s.setCtl c).ps = s.ps := rfl
@[simp] theorem setCtl_retry (c : Ctl) : (s.setCtl c).retry = s.retry := rfl
@[simp] theorem setCtl_fdtSel (c : Ctl) : (s.setCtl c).fdtSel = s.fdtSel := rfl
@[simp] theorem setCtl_statics (c : Ctl) : (s.setCtl c).statics = s.statics := rfl
@[simp] theorem setCtl_storageRef (c : Ctl) : (s.setCtl c).storageRef = s.storageRef := rfl
@[simp] theorem setCtl_storageSize (c : Ctl) : (s.setCtl c).storageSize = s.storageSize := rfl
@[simp] theorem setCtl_initDone (c : Ctl) : (s.setCtl c).initDone = s.initDone := rfl
@[simp] theorem setCtl_modLine (c : Ctl) : (s.setCtl c).modLine = s.modLine := rfl
@[simp] theorem setCtl_ctl (c : Ctl) : (s.setCtl c).ctl = c := rfl
@[simp] theorem setCtl_storage (c : Ctl) : (s.setCtl c).storage = s.storage := rfl
@[simp] theorem setCtl_unbound (c : Ctl) : (s.setCtl c).unbound = s.unbound := rfl
@[simp] theorem setCtl_txLog (c : Ctl) : (s.setCtl c).txLog = s.txLog := rfl
@[simp] theorem setCtl_portDelay (c : Ctl) : (s.setCtl c).portDelay = s.portDelay := rfl
@[simp] theorem setCtl_carrierIn (c : Ctl) : (s.setCtl c).carrierIn = s.carrierIn := rfl
@[simp] theorem setCtl_edgeIn (c : Ctl) : (s.setCtl c).edgeIn = s.edgeIn := rfl
@[simp] theorem setCtl_quietAfter (c : Ctl) : (s.setCtl c).quietAfter = s.quietAfter := rfl
@[simp] theorem setCtl_freeCount (c : Ctl) : (s.setCtl c).freeCount = s.freeCount := rfl
@[simp] theorem setCtl_hostIn (c : Ctl) : (s.setCtl c).hostIn = s.hostIn := rfl
@[simp] theorem setCtl_portLog (c : Ctl) : (s.setCtl c).portLog = s.portLog := rfl

@[simp] theorem setFb_params (f : Vector Byte 64) : (s.setFb f).params = s.params := rfl
@[simp] theorem setFb_fb (f : Vector Byte 64) : (s.setFb f).fb = f := rfl
@[simp] theorem setFb_rxBytes (f : Vector Byte 64) : (s.setFb f).rxBytes = s.rxBytes := rfl
@[simp] theorem setFb_hbitPos (f : Vector Byte 64) : (s.setFb f).hbitPos = s.hbitPos := rfl
@[simp] theorem setFb_bytePos (f : Vector Byte 64) : (s.setFb f).bytePos = s.bytePos := rfl
@[simp] theorem setFb_rxT (f : Vector Byte 64) : (s.setFb f).rxT = s.rxT := rfl
@[simp] theorem setFb_rxE (f : Vector Byte 64) : (s.setFb f).rxE = s.rxE := rfl
@[simp] theorem setFb_rxC (f : Vector Byte 64) : (s.setFb f).rxC = s.rxC := rfl
@[simp] theorem setFb_rxR (f : Vector Byte 64) : (s.setFb f).rxR = s.rxR := rfl
@[simp] theorem setFb_txI (f : Vector Byte 64) : (s.setFb f).txI = s.txI := rfl
@[simp] theorem setFb_txK (f : Vector Byte 64) : (s.setFb f).txK = s.txK := rfl
@[simp] theorem setFb_par (f : Vector Byte 64) : (s.setFb f).par = s.par := rfl
@[simp] theorem setFb_txSrc (f : Vector Byte 64) : (s.setFb f).txSrc = s.txSrc := rfl
@[simp] theorem setFb_txLen (f : Vector Byte 64) : (s.setFb f).txLen = s.txLen := rfl
@[simp] theorem setFb_psAfter (f : Vector Byte 64) : (s.setFb f).psAfter = s.psAfter := rfl
@[simp] theorem setFb_ps (f : Vector Byte 64) : (s.setFb f).ps = s.ps := rfl
@[simp] theorem setFb_retry (f : Vector Byte 64) : (s.setFb f).retry = s.retry := rfl
@[simp] theorem setFb_fdtSel (f : Vector Byte 64) : (s.setFb f).fdtSel = s.fdtSel := rfl
@[simp] theorem setFb_statics (f : Vector Byte 64) : (s.setFb f).statics = s.statics := rfl
@[simp] theorem setFb_storageRef (f : Vector Byte 64) : (s.setFb f).storageRef = s.storageRef := rfl
@[simp] theorem setFb_storageSize (f : Vector Byte 64) : (s.setFb f).storageSize = s.storageSize := rfl
@[simp] theorem setFb_initDone (f : Vector Byte 64) : (s.setFb f).initDone = s.initDone := rfl
@[simp] theorem setFb_modLine (f : Vector Byte 64) : (s.setFb f).modLine = s.modLine := rfl
@[simp] theorem setFb_ctl (f : Vector Byte 64) : (s.setFb f).ctl = s.ctl := rfl
@[simp] theorem setFb_storage (f : Vector Byte 64) : (s.setFb f).storage = s.storage := rfl
@[simp] theorem setFb_unbound (f : Vector Byte 64) : (s.setFb f).unbound = s.unbound := rfl
@[simp] theorem setFb_txLog (f : Vector Byte 64) : (s.setFb f).txLog = s.txLog := rfl
@[simp] theorem setFb_portDelay (f : Vector Byte 64) : (s.setFb f).portDelay = s.portDelay := rfl
@[simp] theorem setFb_carrierIn (f : Vector Byte 64) : (s.setFb f).carrierIn = s.carrierIn := rfl
@[simp] theorem setFb_edgeIn (f : Vector Byte 64) : (s.setFb f).edgeIn = s.edgeIn := rfl
@[simp] theorem setFb_quietAfter (f : Vector Byte 64) : (s.setFb f).quietAfter = s.quietAfter := rfl
@[simp] theorem setFb_freeCount (f : Vector Byte 64) : (s.setFb f).freeCount = s.freeCount := rfl
@[simp] theorem setFb_hostIn (f : Vector Byte 64) : (s.setFb f).hostIn = s.hostIn := rfl
@[simp] theorem setFb_portLog (f : Vector Byte 64) : (s.setFb f).portLog = s.portLog := rfl

@[simp] theorem setStorage_params (m : Memory) : (s.setStorage m).params = s.params := rfl
@[simp] theorem setStorage_fb (m : Memory) : (s.setStorage m).fb = s.fb := rfl
@[simp] theorem setStorage_rxBytes (m : Memory) : (s.setStorage m).rxBytes = s.rxBytes := rfl
@[simp] theorem setStorage_hbitPos (m : Memory) : (s.setStorage m).hbitPos = s.hbitPos := rfl
@[simp] theorem setStorage_bytePos (m : Memory) : (s.setStorage m).bytePos = s.bytePos := rfl
@[simp] theorem setStorage_rxT (m : Memory) : (s.setStorage m).rxT = s.rxT := rfl
@[simp] theorem setStorage_rxE (m : Memory) : (s.setStorage m).rxE = s.rxE := rfl
@[simp] theorem setStorage_rxC (m : Memory) : (s.setStorage m).rxC = s.rxC := rfl
@[simp] theorem setStorage_rxR (m : Memory) : (s.setStorage m).rxR = s.rxR := rfl
@[simp] theorem setStorage_txI (m : Memory) : (s.setStorage m).txI = s.txI := rfl
@[simp] theorem setStorage_txK (m : Memory) : (s.setStorage m).txK = s.txK := rfl
@[simp] theorem setStorage_par (m : Memory) : (s.setStorage m).par = s.par := rfl
@[simp] theorem setStorage_txSrc (m : Memory) : (s.setStorage m).txSrc = s.txSrc := rfl
@[simp] theorem setStorage_txLen (m : Memory) : (s.setStorage m).txLen = s.txLen := rfl
@[simp] theorem setStorage_psAfter (m : Memory) : (s.setStorage m).psAfter = s.psAfter := rfl
@[simp] theorem setStorage_ps (m : Memory) : (s.setStorage m).ps = s.ps := rfl
@[simp] theorem setStorage_retry (m : Memory) : (s.setStorage m).retry = s.retry := rfl
@[simp] theorem setStorage_fdtSel (m : Memory) : (s.setStorage m).fdtSel = s.fdtSel := rfl
@[simp] theorem setStorage_statics (m : Memory) : (s.setStorage m).statics = s.statics := rfl
@[simp] theorem setStorage_storageRef (m : Memory) : (s.setStorage m).storageRef = s.storageRef := rfl
@[simp] theorem setStorage_storageSize (m : Memory) : (s.setStorage m).storageSize = s.storageSize := rfl
@[simp] theorem setStorage_initDone (m : Memory) : (s.setStorage m).initDone = s.initDone := rfl
@[simp] theorem setStorage_modLine (m : Memory) : (s.setStorage m).modLine = s.modLine := rfl
@[simp] theorem setStorage_ctl (m : Memory) : (s.setStorage m).ctl = s.ctl := rfl
@[simp] theorem setStorage_storage (m : Memory) : (s.setStorage m).storage = m := rfl
@[simp] theorem setStorage_unbound (m : Memory) : (s.setStorage m).unbound = s.unbound := rfl
@[simp] theorem setStorage_txLog (m : Memory) : (s.setStorage m).txLog = s.txLog := rfl
@[simp] theorem setStorage_portDelay (m : Memory) : (s.setStorage m).portDelay = s.portDelay := rfl
@[simp] theorem setStorage_carrierIn (m : Memory) : (s.setStorage m).carrierIn = s.carrierIn := rfl
@[simp] theorem setStorage_edgeIn (m : Memory) : (s.setStorage m).edgeIn = s.edgeIn := rfl
@[simp] theorem setStorage_quietAfter (m : Memory) : (s.setStorage m).quietAfter = s.quietAfter := rfl
@[simp] theorem setStorage_freeCount (m : Memory) : (s.setStorage m).freeCount = s.freeCount := rfl
@[simp] theorem setStorage_hostIn (m : Memory) : (s.setStorage m).hostIn = s.hostIn := rfl
@[simp] theorem setStorage_portLog (m : Memory) : (s.setStorage m).portLog = s.portLog := rfl

@[simp] theorem logPort_params (op : PortOp) : (logPort op s).params = s.params := rfl
@[simp] theorem logPort_fb (op : PortOp) : (logPort op s).fb = s.fb := rfl
@[simp] theorem logPort_rxBytes (op : PortOp) : (logPort op s).rxBytes = s.rxBytes := rfl
@[simp] theorem logPort_hbitPos (op : PortOp) : (logPort op s).hbitPos = s.hbitPos := rfl
@[simp] theorem logPort_bytePos (op : PortOp) : (logPort op s).bytePos = s.bytePos := rfl
@[simp] theorem logPort_rxT (op : PortOp) : (logPort op s).rxT = s.rxT := rfl
@[simp] theorem logPort_rxE (op : PortOp) : (logPort op s).rxE = s.rxE := rfl
@[simp] theorem logPort_rxC (op : PortOp) : (logPort op s).rxC = s.rxC := rfl
@[simp] theorem logPort_rxR (op : PortOp) : (logPort op s).rxR = s.rxR := rfl
@[simp] theorem logPort_txI (op : PortOp) : (logPort op s).txI = s.txI := rfl
@[simp] theorem logPort_txK (op : PortOp) : (logPort op s).txK = s.txK := rfl
@[simp] theorem logPort_par (op : PortOp) : (logPort op s).par = s.par := rfl
@[simp] theorem logPort_txSrc (op : PortOp) : (logPort op s).txSrc = s.txSrc := rfl
@[simp] theorem logPort_txLen (op : PortOp) : (logPort op s).txLen = s.txLen := rfl
@[simp] theorem logPort_psAfter (op : PortOp) : (logPort op s).psAfter = s.psAfter := rfl
@[simp] theorem logPort_ps (op : PortOp) : (logPort op s).ps = s.ps := rfl
@[simp] theorem logPort_retry (op : PortOp) : (logPort op s).retry = s.retry := rfl
@[simp] theorem logPort_fdtSel (op : PortOp) : (logPort op s).fdtSel = s.fdtSel := rfl
@[simp] theorem logPort_statics (op : PortOp) : (logPort op s).statics = s.statics := rfl
@[simp] theorem logPort_storageRef (op : PortOp) : (logPort op s).storageRef = s.storageRef := rfl
@[simp] theorem logPort_storageSize (op : PortOp) : (logPort op s).storageSize = s.storageSize := rfl
@[simp] theorem logPort_initDone (op : PortOp) : (logPort op s).initDone = s.initDone := rfl
@[simp] theorem logPort_modLine (op : PortOp) : (logPort op s).modLine = s.modLine := rfl
@[simp] theorem logPort_ctl (op : PortOp) : (logPort op s).ctl = s.ctl := rfl
@[simp] theorem logPort_storage (op : PortOp) : (logPort op s).storage = s.storage := rfl
@[simp] theorem logPort_unbound (op : PortOp) : (logPort op s).unbound = s.unbound := rfl
@[simp] theorem logPort_txLog (op : PortOp) : (logPort op s).txLog = s.txLog := rfl
@[simp] theorem logPort_portDelay (op : PortOp) : (logPort op s).portDelay = s.portDelay := rfl
@[simp] theorem logPort_carrierIn (op : PortOp) : (logPort op s).carrierIn = s.carrierIn := rfl
@[simp] theorem logPort_edgeIn (op : PortOp) : (logPort op s).edgeIn = s.edgeIn := rfl
@[simp] theorem logPort_quietAfter (op : PortOp) : (logPort op s).quietAfter = s.quietAfter := rfl
@[simp] theorem logPort_freeCount (op : PortOp) : (logPort op s).freeCount = s.freeCount := rfl
@[simp] theorem logPort_hostIn (op : PortOp) : (logPort op s).hostIn = s.hostIn := rfl
@[simp] theorem logPort_portLog (op : PortOp) : (logPort op s).portLog = op :: s.portLog := rfl

@[simp] theorem startTx_params (src : TxSrc) (n : Nat) (after : Option ProtState) : (startTx src n after s).params = s.params := rfl
@[simp] theorem startTx_fb (src : TxSrc) (n : Nat) (after : Option ProtState) : (startTx src n after s).fb = s.fb := rfl
@[simp] theorem startTx_rxBytes (src : TxSrc) (n : Nat) (after : Option ProtState) : (startTx src n after s).rxBytes = s.rxBytes := rfl
@[simp] theorem startTx_hbitPos (src : TxSrc) (n : Nat) (after : Option ProtState) : (startTx src n after s).hbitPos = s.hbitPos := rfl
@[simp] theorem startTx_bytePos (src : TxSrc) (n : Nat) (after : Option ProtState) : (startTx src n after s).bytePos = s.bytePos := rfl
@[simp] theorem startTx_rxT (src : TxSrc) (n : Nat) (after : Option ProtState) : (startTx src n after s).rxT = s.rxT := rfl
@[simp] theorem startTx_rxE (src : TxSrc) (n : Nat) (after : Option ProtState) : (startTx src n after s).rxE = s.rxE := rfl
@[simp] theorem startTx_rxC (src : TxSrc) (n : Nat) (after : Option ProtState) : (startTx src n after s).rxC = s.rxC := rfl
@[simp] theorem startTx_rxR (src : TxSrc) (n : Nat) (after : Option ProtState) : (startTx src n after s).rxR = s.rxR := rfl
@[simp] theorem startTx_txI (src : TxSrc) (n : Nat) (after : Option ProtState) : (startTx src n after s).txI = s.txI := rfl
@[simp] theorem startTx_txK (src : TxSrc) (n : Nat) (after : Option ProtState) : (startTx src n after s).txK = s.txK := rfl
@[simp] theorem startTx_par (src : TxSrc) (n : Nat) (after : Option ProtState) : (startTx src n after s).par = s.par := rfl
@[simp] theorem startTx_txSrc (src : TxSrc) (n : Nat) (after : Option ProtState) : (startTx src n after s).txSrc = src := rfl
@[simp] theorem startTx_txLen (src : TxSrc) (n : Nat) (after : Option ProtState) : (startTx src n after s).txLen = n := rfl
@[simp] theorem startTx_psAfter (src : TxSrc) (n : Nat) (after : Option ProtState) : (startTx src n after s).psAfter = after := rfl
@[simp] theorem startTx_ps (src : TxSrc) (n : Nat) (after : Option ProtState) : (startTx src n after s).ps = s.ps := rfl
@[simp] theorem startTx_retry (src : TxSrc) (n : Nat) (after : Option ProtState) : (startTx src n after s).retry = s.retry := rfl
@[simp] theorem startTx_fdtSel (src : TxSrc) (n : Nat) (after : Option ProtState) : (startTx src n after s).fdtSel = s.fdtSel := rfl
@[simp] theorem startTx_statics (src : TxSrc) (n : Nat) (after : Option ProtState) : (startTx src n after s).statics = s.statics := rfl
@[simp] theorem startTx_storageRef (src : TxSrc) (n : Nat) (after : Option ProtState) : (startTx src n after s).storageRef = s.storageRef := rfl
@[simp] theorem startTx_storageSize (src : TxSrc) (n : Nat) (after : Option ProtState) : (startTx src n after s).storageSize = s.storageSize := rfl
@[simp] theorem startTx_initDone (src : TxSrc) (n : Nat) (after : Option ProtState) : (startTx src n after s).initDone = s.initDone := rfl
@[simp] theorem startTx_modLine (src : TxSrc) (n : Nat) (after : Option ProtState) : (startTx src n after s).modLine = s.modLine := rfl
@[simp] theorem startTx_ctl (src : TxSrc) (n : Nat) (after : Option ProtState) : (startTx src n after s).ctl = .tx .soc false := rfl
@[simp] theorem startTx_storage (src : TxSrc) (n : Nat) (after : Option ProtState) : (startTx src n after s).storage = s.storage := rfl
@[simp] theorem startTx_unbound (src : TxSrc) (n : Nat) (after : Option ProtState) : (startTx src n after s).unbound = s.unbound := rfl
@[simp] theorem startTx_txLog (src : TxSrc) (n : Nat) (after : Option ProtState) : (startTx src n after s).txLog = s.txLog ++
      [{ fdtSel := s.fdtSel, bytes := (srcBytes s src).take n, slots := slotsOfFrame s.params.paritySeed ((srcBytes s src).take n) }] := rfl
@[simp] theorem startTx_portDelay (src : TxSrc) (n : Nat) (after : Option ProtState) : (startTx src n after s).portDelay = s.portDelay := rfl
@[simp] theorem startTx_carrierIn (src : TxSrc) (n : Nat) (after : Option ProtState) : (startTx src n after s).carrierIn = s.carrierIn := rfl
@[simp] theorem startTx_edgeIn (src : TxSrc) (n : Nat) (after : Option ProtState) : (startTx src n after s).edgeIn = s.edgeIn := rfl
@[simp] theorem startTx_quietAfter (src : TxSrc) (n : Nat) (after : Option ProtState) : (startTx src n after s).quietAfter = s.quietAfter := rfl
@[simp] theorem startTx_freeCount (src : TxSrc) (n : Nat) (after : Option ProtState) : (startTx src n after s).freeCount = s.freeCount := rfl
@[simp] theorem startTx_hostIn (src : TxSrc) (n : Nat) (after : Option ProtState) : (startTx src n after s).hostIn = s.hostIn := rfl
@[simp] theorem startTx_portLog (src : TxSrc) (n : Nat) (after : Option ProtState) : (startTx src n after s).portLog = s.portLog := rfl

@[simp] theorem answering_params (src : TxSrc) (bs : List Byte) (after : Option ProtState) : (answering src bs after s).params = s.params := rfl
@[simp] theorem answering_fb (src : TxSrc) (bs : List Byte) (after : Option ProtState) : (answering src bs after s).fb = s.fb := rfl
@[simp] theorem answering_rxBytes (src : TxSrc) (bs : List Byte) (after : Option ProtState) : (answering src bs after s).rxBytes = s.rxBytes := rfl
@[simp] theorem answering_hbitPos (src : TxSrc) (bs : List Byte) (after : Option ProtState) : (answering src bs after s).hbitPos = s.hbitPos := rfl
@[simp] theorem answering_bytePos (src : TxSrc) (bs : List Byte) (after : Option ProtState) : (answering src bs after s).bytePos = s.bytePos := rfl
@[simp] theorem answering_rxT (src : TxSrc) (bs : List Byte) (after : Option ProtState) : (answering src bs after s).rxT = s.rxT := rfl
@[simp] theorem answering_rxE (src : TxSrc) (bs : List Byte) (after : Option ProtState) : (answering src bs after s).rxE = s.rxE := rfl
@[simp] theorem answering_rxC (src : TxSrc) (bs : List Byte) (after : Option ProtState) : (answering src bs after s).rxC = s.rxC := rfl
@[simp] theorem answering_rxR (src : TxSrc) (bs : List Byte) (after : Option ProtState) : (answering src bs after s).rxR = s.rxR := rfl
@[simp] theorem answering_txI (src : TxSrc) (bs : List Byte) (after : Option ProtState) : (answering src bs after s).txI = s.txI := rfl
@[simp] theorem answering_txK (src : TxSrc) (bs : List Byte) (after : Option ProtState) : (answering src bs after s).txK = s.txK := rfl
@[simp] theorem answering_par (src : TxSrc) (bs : List Byte) (after : Option ProtState) : (answering src bs after s).par = s.par := rfl
@[simp] theorem answering_txSrc (src : TxSrc) (bs : List Byte) (after : Option ProtState) : (answering src bs after s).txSrc = src := rfl
@[simp] theorem answering_txLen (src : TxSrc) (bs : List Byte) (after : Option ProtState) : (answering src bs after s).txLen = bs.length := rfl
@[simp] theorem answering_psAfter (src : TxSrc) (bs : List Byte) (after : Option ProtState) : (answering src bs after s).psAfter = after := rfl
@[simp] theorem answering_ps (src : TxSrc) (bs : List Byte) (after : Option ProtState) : (answering src bs after s).ps = s.ps := rfl
@[simp] theorem answering_retry (src : TxSrc) (bs : List Byte) (after : Option ProtState) : (answering src bs after s).retry = s.retry := rfl
@[simp] theorem answering_fdtSel (src : TxSrc) (bs : List Byte) (after : Option ProtState) : (answering src bs after s).fdtSel = s.fdtSel := rfl
@[simp] theorem answering_statics (src : TxSrc) (bs : List Byte) (after : Option ProtState) : (answering src bs after s).statics = s.statics := rfl
@[simp] theorem answering_storageRef (src : TxSrc) (bs : List Byte) (after : Option ProtState) : (answering src bs after s).storageRef = s.storageRef := rfl
@[simp] theorem answering_storageSize (src : TxSrc) (bs : List Byte) (after : Option ProtState) : (answering src bs after s).storageSize = s.storageSize := rfl
@[simp] theorem answering_initDone (src : TxSrc) (bs : List Byte) (after : Option ProtState) : (answering src bs after s).initDone = s.initDone := rfl
@[simp] theorem answering_modLine (src : TxSrc) (bs : List Byte) (after : Option ProtState) : (answering src bs after s).modLine = s.modLine := rfl
@[simp] theorem answering_ctl (src : TxSrc) (bs : List Byte) (after : Option ProtState) : (answering src bs after s).ctl = .tx .soc false := rfl
@[simp] theorem answering_storage (src : TxSrc) (bs : List Byte) (after : Option ProtState) : (answering src bs after s).storage = s.storage := rfl
@[simp] theorem answering_unbound (src : TxSrc) (bs : List Byte) (after : Option ProtState) : (answering src bs after s).unbound = s.unbound := rfl
@[simp] theorem answering_txLog (src : TxSrc) (bs : List Byte) (after : Option ProtState) : (answering src bs after s).txLog = s.txLog ++
      [{ fdtSel := s.fdtSel, bytes := bs, slots := slotsOfFrame s.params.paritySeed (bs) }] := rfl
@[simp] theorem answering_portDelay (src : TxSrc) (bs : List Byte) (after : Option ProtState) : (answering src bs after s).portDelay = s.portDelay := rfl
@[simp] theorem answering_carrierIn (src : TxSrc) (bs : List Byte) (after : Option ProtState) : (answering src bs after s).carrierIn = s.carrierIn := rfl
@[simp] theorem answering_edgeIn (src : TxSrc) (bs : List Byte) (after : Option ProtState) : (answering src bs after s).edgeIn = s.edgeIn := rfl
@[simp] theorem answering_quietAfter (src : TxSrc) (bs : List Byte) (after : Option ProtState) : (answering src bs after s).quietAfter = s.quietAfter := rfl
@[simp] theorem answering_freeCount (src : TxSrc) (bs : List Byte) (after : Option ProtState) : (answering src bs after s).freeCount = s.freeCount := rfl
@[simp] theorem answering_hostIn (src : TxSrc) (bs : List Byte) (after : Option ProtState) : (answering src bs after s).hostIn = s.hostIn := rfl
@[simp] theorem answering_portLog (src : TxSrc) (bs : List Byte) (after : Option ProtState) : (answering src bs after s).portLog = s.portLog := rfl

@[simp] theorem endCycle_params : (endCycle s).params = s.params := rfl
@[simp] theorem endCycle_fb : (endCycle s).fb = s.fb := rfl
@[simp] theorem endCycle_rxBytes : (endCycle s).rxBytes = s.rxBytes := rfl
@[simp] theorem endCycle_hbitPos : (endCycle s).hbitPos = s.hbitPos := rfl
@[simp] theorem endCycle_bytePos : (endCycle s).bytePos = s.bytePos := rfl
@[simp] theorem endCycle_rxT : (endCycle s).rxT = s.rxT := rfl
@[simp] theorem endCycle_rxE : (endCycle s).rxE = s.rxE := rfl
@[simp] theorem endCycle_rxC : (endCycle s).rxC = s.rxC := rfl
@[simp] theorem endCycle_rxR : (endCycle s).rxR = s.rxR := rfl
@[simp] theorem endCycle_txI : (endCycle s).txI = s.txI := rfl
@[simp] theorem endCycle_txK : (endCycle s).txK = s.txK := rfl
@[simp] theorem endCycle_par : (endCycle s).par = s.par := rfl
@[simp] theorem endCycle_txSrc : (endCycle s).txSrc = s.txSrc := rfl
@[simp] theorem endCycle_txLen : (endCycle s).txLen = s.txLen := rfl
@[simp] theorem endCycle_psAfter : (endCycle s).psAfter = s.psAfter := rfl
@[simp] theorem endCycle_ps : (endCycle s).ps = s.ps := rfl
@[simp] theorem endCycle_retry : (endCycle s).retry = s.retry := rfl
@[simp] theorem endCycle_fdtSel : (endCycle s).fdtSel = s.fdtSel := rfl
@[simp] theorem endCycle_statics : (endCycle s).statics = s.statics := rfl
@[simp] theorem endCycle_storageRef : (endCycle s).storageRef = s.storageRef := rfl
@[simp] theorem endCycle_storageSize : (endCycle s).storageSize = s.storageSize := rfl
@[simp] theorem endCycle_initDone : (endCycle s).initDone = s.initDone := rfl
@[simp] theorem endCycle_modLine : (endCycle s).modLine = s.modLine := rfl
@[simp] theorem endCycle_ctl : (endCycle s).ctl = if s.retry = 0 then .done else .rx .drain := rfl
@[simp] theorem endCycle_storage : (endCycle s).storage = s.storage := rfl
@[simp] theorem endCycle_unbound : (endCycle s).unbound = s.unbound := rfl
@[simp] theorem endCycle_txLog : (endCycle s).txLog = s.txLog := rfl
@[simp] theorem endCycle_portDelay : (endCycle s).portDelay = s.portDelay := rfl
@[simp] theorem endCycle_carrierIn : (endCycle s).carrierIn = s.carrierIn := rfl
@[simp] theorem endCycle_edgeIn : (endCycle s).edgeIn = s.edgeIn := rfl
@[simp] theorem endCycle_quietAfter : (endCycle s).quietAfter = s.quietAfter := rfl
@[simp] theorem endCycle_freeCount : (endCycle s).freeCount = s.freeCount := rfl
@[simp] theorem endCycle_hostIn : (endCycle s).hostIn = s.hostIn := rfl
@[simp] theorem endCycle_portLog : (endCycle s).portLog = s.portLog := rfl

@[simp] theorem fbWrite_params (i : Nat) (v : Byte) : (fbWrite i v s).params = s.params := rfl
@[simp] theorem fbWrite_fb (i : Nat) (v : Byte) : (fbWrite i v s).fb = s.fb.setIfInBounds i v := rfl
@[simp] theorem fbWrite_rxBytes (i : Nat) (v : Byte) : (fbWrite i v s).rxBytes = s.rxBytes := rfl
@[simp] theorem fbWrite_hbitPos (i : Nat) (v : Byte) : (fbWrite i v s).hbitPos = s.hbitPos := rfl
@[simp] theorem fbWrite_bytePos (i : Nat) (v : Byte) : (fbWrite i v s).bytePos = s.bytePos := rfl
@[simp] theorem fbWrite_rxT (i : Nat) (v : Byte) : (fbWrite i v s).rxT = s.rxT := rfl
@[simp] theorem fbWrite_rxE (i : Nat) (v : Byte) : (fbWrite i v s).rxE = s.rxE := rfl
@[simp] theorem fbWrite_rxC (i : Nat) (v : Byte) : (fbWrite i v s).rxC = s.rxC := rfl
@[simp] theorem fbWrite_rxR (i : Nat) (v : Byte) : (fbWrite i v s).rxR = s.rxR := rfl
@[simp] theorem fbWrite_txI (i : Nat) (v : Byte) : (fbWrite i v s).txI = s.txI := rfl
@[simp] theorem fbWrite_txK (i : Nat) (v : Byte) : (fbWrite i v s).txK = s.txK := rfl
@[simp] theorem fbWrite_par (i : Nat) (v : Byte) : (fbWrite i v s).par = s.par := rfl
@[simp] theorem fbWrite_txSrc (i : Nat) (v : Byte) : (fbWrite i v s).txSrc = s.txSrc := rfl
@[simp] theorem fbWrite_txLen (i : Nat) (v : Byte) : (fbWrite i v s).txLen = s.txLen := rfl
@[simp] theorem fbWrite_psAfter (i : Nat) (v : Byte) : (fbWrite i v s).psAfter = s.psAfter := rfl
@[simp] theorem fbWrite_ps (i : Nat) (v : Byte) : (fbWrite i v s).ps = s.ps := rfl
@[simp] theorem fbWrite_retry (i : Nat) (v : Byte) : (fbWrite i v s).retry = s.retry := rfl
@[simp] theorem fbWrite_fdtSel (i : Nat) (v : Byte) : (fbWrite i v s).fdtSel = s.fdtSel := rfl
@[simp] theorem fbWrite_statics (i : Nat) (v : Byte) : (fbWrite i v s).statics = s.statics := rfl
@[simp] theorem fbWrite_storageRef (i : Nat) (v : Byte) : (fbWrite i v s).storageRef = s.storageRef := rfl
@[simp] theorem fbWrite_storageSize (i : Nat) (v : Byte) : (fbWrite i v s).storageSize = s.storageSize := rfl
@[simp] theorem fbWrite_initDone (i : Nat) (v : Byte) : (fbWrite i v s).initDone = s.initDone := rfl
@[simp] theorem fbWrite_modLine (i : Nat) (v : Byte) : (fbWrite i v s).modLine = s.modLine := rfl
@[simp] theorem fbWrite_ctl (i : Nat) (v : Byte) : (fbWrite i v s).ctl = s.ctl := rfl
@[simp] theorem fbWrite_storage (i : Nat) (v : Byte) : (fbWrite i v s).storage = s.storage := rfl
@[simp] theorem fbWrite_unbound (i : Nat) (v : Byte) : (fbWrite i v s).unbound = s.unbound := rfl
@[simp] theorem fbWrite_txLog (i : Nat) (v : Byte) : (fbWrite i v s).txLog = s.txLog := rfl
@[simp] theorem fbWrite_portDelay (i : Nat) (v : Byte) : (fbWrite i v s).portDelay = s.portDelay := rfl
@[simp] theorem fbWrite_carrierIn (i : Nat) (v : Byte) : (fbWrite i v s).carrierIn = s.carrierIn := rfl
@[simp] theorem fbWrite_edgeIn (i : Nat) (v : Byte) : (fbWrite i v s).edgeIn = s.edgeIn := rfl
@[simp] theorem fbWrite_quietAfter (i : Nat) (v : Byte) : (fbWrite i v s).quietAfter = s.quietAfter := rfl
@[simp] theorem fbWrite_freeCount (i : Nat) (v : Byte) : (fbWrite i v s).freeCount = s.freeCount := rfl
@[simp] theorem fbWrite_hostIn (i : Nat) (v : Byte) : (fbWrite i v s).hostIn = s.hostIn := rfl
@[simp] theorem fbWrite_portLog (i : Nat) (v : Byte) : (fbWrite i v s).portLog = s.portLog := rfl

@[simp] theorem memWrite_params (off : Nat) (v : Byte) : (memWrite s off v).params = s.params := rfl
@[simp] theorem memWrite_fb (off : Nat) (v : Byte) : (memWrite s off v).fb = s.fb := rfl
@[simp] theorem memWrite_rxBytes (off : Nat) (v : Byte) : (memWrite s off v).rxBytes = s.rxBytes := rfl
@[simp] theorem memWrite_hbitPos (off : Nat) (v : Byte) : (memWrite s off v).hbitPos = s.hbitPos := rfl
@[simp] theorem memWrite_bytePos (off : Nat) (v : Byte) : (memWrite s off v).bytePos = s.bytePos := rfl
@[simp] theorem memWrite_rxT (off : Nat) (v : Byte) : (memWrite s off v).rxT = s.rxT := rfl
@[simp] theorem memWrite_rxE (off : Nat) (v : Byte) : (memWrite s off v).rxE = s.rxE := rfl
@[simp] theorem memWrite_rxC (off : Nat) (v : Byte) : (memWrite s off v).rxC = s.rxC := rfl
@[simp] theorem memWrite_rxR (off : Nat) (v : Byte) : (memWrite s off v).rxR = s.rxR := rfl
@[simp] theorem memWrite_txI (off : Nat) (v : Byte) : (memWrite s off v).txI = s.txI := rfl
@[simp] theorem memWrite_txK (off : Nat) (v : Byte) : (memWrite s off v).txK = s.txK := rfl
@[simp] theorem memWrite_par (off : Nat) (v : Byte) : (memWrite s off v).par = s.par := rfl
@[simp] theorem memWrite_txSrc (off : Nat) (v : Byte) : (memWrite s off v).txSrc = s.txSrc := rfl
@[simp] theorem memWrite_txLen (off : Nat) (v : Byte) : (memWrite s off v).txLen = s.txLen := rfl
@[simp] theorem memWrite_psAfter (off : Nat) (v : Byte) : (memWrite s off v).psAfter = s.psAfter := rfl
@[simp] theorem memWrite_ps (off : Nat) (v : Byte) : (memWrite s off v).ps = s.ps := rfl
@[simp] theorem memWrite_retry (off : Nat) (v : Byte) : (memWrite s off v).retry = s.retry := rfl
@[simp] theorem memWrite_fdtSel (off : Nat) (v : Byte) : (memWrite s off v).fdtSel = s.fdtSel := rfl
@[simp] theorem memWrite_statics (off : Nat) (v : Byte) : (memWrite s off v).statics = s.statics := rfl
@[simp] theorem memWrite_storageRef (off : Nat) (v : Byte) : (memWrite s off v).storageRef = s.storageRef := rfl
@[simp] theorem memWrite_storageSize (off : Nat) (v : Byte) : (memWrite s off v).storageSize = s.storageSize := rfl
@[simp] theorem memWrite_initDone (off : Nat) (v : Byte) : (memWrite s off v).initDone = s.initDone := rfl
@[simp] theorem memWrite_modLine (off : Nat) (v : Byte) : (memWrite s off v).modLine = s.modLine := rfl
@[simp] theorem memWrite_ctl (off : Nat) (v : Byte) : (memWrite s off v).ctl = s.ctl := rfl
@[simp] theorem memWrite_storage (off : Nat) (v : Byte) : (memWrite s off v).storage = regionWrite s.storageSize s.storage off v := rfl
@[simp] theorem memWrite_unbound (off : Nat) (v : Byte) : (memWrite s off v).unbound = s.unbound := rfl
@[simp] theorem memWrite_txLog (off : Nat) (v : Byte) : (memWrite s off v).txLog = s.txLog := rfl
@[simp] theorem memWrite_portDelay (off : Nat) (v : Byte) : (memWrite s off v).portDelay = s.portDelay := rfl
@[simp] theorem memWrite_carrierIn (off : Nat) (v : Byte) : (memWrite s off v).carrierIn = s.carrierIn := rfl
@[simp] theorem memWrite_edgeIn (off : Nat) (v : Byte) : (memWrite s off v).edgeIn = s.edgeIn := rfl
@[simp] theorem memWrite_quietAfter (off : Nat) (v : Byte) : (memWrite s off v).quietAfter = s.quietAfter := rfl
@[simp] theorem memWrite_freeCount (off : Nat) (v : Byte) : (memWrite s off v).freeCount = s.freeCount := rfl
@[simp] theorem memWrite_hostIn (off : Nat) (v : Byte) : (memWrite s off v).hostIn = s.hostIn := rfl
@[simp] theorem memWrite_portLog (off : Nat) (v : Byte) : (memWrite s off v).portLog = s.portLog := rfl

@[simp] theorem writeBlock_params (index : Nat) (d : List Byte) : (writeBlock index d s).params = s.params := rfl
@[simp] theorem writeBlock_fb (index : Nat) (d : List Byte) : (writeBlock index d s).fb = s.fb := rfl
@[simp] theorem writeBlock_rxBytes (index : Nat) (d : List Byte) : (writeBlock index d s).rxBytes = s.rxBytes := rfl
@[simp] theorem writeBlock_hbitPos (index : Nat) (d : List Byte) : (writeBlock index d s).hbitPos = s.hbitPos := rfl
@[simp] theorem writeBlock_bytePos (index : Nat) (d : List Byte) : (writeBlock index d s).bytePos = s.bytePos := rfl
@[simp] theorem writeBlock_rxT (index : Nat) (d : List Byte) : (writeBlock index d s).rxT = s.rxT := rfl
@[simp] theorem writeBlock_rxE (index : Nat) (d : List Byte) : (writeBlock index d s).rxE = s.rxE := rfl
@[simp] theorem writeBlock_rxC (index : Nat) (d : List Byte) : (writeBlock index d s).rxC = s.rxC := rfl
@[simp] theorem writeBlock_rxR (index : Nat) (d : List Byte) : (writeBlock index d s).rxR = s.rxR := rfl
@[simp] theorem writeBlock_txI (index : Nat) (d : List Byte) : (writeBlock index d s).txI = s.txI := rfl
@[simp] theorem writeBlock_txK (index : Nat) (d : List Byte) : (writeBlock index d s).txK = s.txK := rfl
@[simp] theorem writeBlock_par (index : Nat) (d : List Byte) : (writeBlock index d s).par = s.par := rfl
@[simp] theorem writeBlock_txSrc (index : Nat) (d : List Byte) : (writeBlock index d s).txSrc = s.txSrc := rfl
@[simp] theorem writeBlock_txLen (index : Nat) (d : List Byte) : (writeBlock index d s).txLen = s.txLen := rfl
@[simp] theorem writeBlock_psAfter (index : Nat) (d : List Byte) : (writeBlock index d s).psAfter = s.psAfter := rfl
@[simp] theorem writeBlock_ps (index : Nat) (d : List Byte) : (writeBlock index d s).ps = s.ps := rfl
@[simp] theorem writeBlock_retry (index : Nat) (d : List Byte) : (writeBlock index d s).retry = s.retry := rfl
@[simp] theorem writeBlock_fdtSel (index : Nat) (d : List Byte) : (writeBlock index d s).fdtSel = s.fdtSel := rfl
@[simp] theorem writeBlock_statics (index : Nat) (d : List Byte) : (writeBlock index d s).statics = s.statics := rfl
@[simp] theorem writeBlock_storageRef (index : Nat) (d : List Byte) : (writeBlock index d s).storageRef = s.storageRef := rfl
@[simp] theorem writeBlock_storageSize (index : Nat) (d : List Byte) : (writeBlock index d s).storageSize = s.storageSize := rfl
@[simp] theorem writeBlock_initDone (index : Nat) (d : List Byte) : (writeBlock index d s).initDone = s.initDone := rfl
@[simp] theorem writeBlock_modLine (index : Nat) (d : List Byte) : (writeBlock index d s).modLine = s.modLine := rfl
@[simp] theorem writeBlock_ctl (index : Nat) (d : List Byte) : (writeBlock index d s).ctl = s.ctl := rfl
@[simp] theorem writeBlock_storage (index : Nat) (d : List Byte) : (writeBlock index d s).storage = regionFill s.storageSize s.storage (blockOffset index 0) d := rfl
@[simp] theorem writeBlock_unbound (index : Nat) (d : List Byte) : (writeBlock index d s).unbound = s.unbound := rfl
@[simp] theorem writeBlock_txLog (index : Nat) (d : List Byte) : (writeBlock index d s).txLog = s.txLog := rfl
@[simp] theorem writeBlock_portDelay (index : Nat) (d : List Byte) : (writeBlock index d s).portDelay = s.portDelay := rfl
@[simp] theorem writeBlock_carrierIn (index : Nat) (d : List Byte) : (writeBlock index d s).carrierIn = s.carrierIn := rfl
@[simp] theorem writeBlock_edgeIn (index : Nat) (d : List Byte) : (writeBlock index d s).edgeIn = s.edgeIn := rfl
@[simp] theorem writeBlock_quietAfter (index : Nat) (d : List Byte) : (writeBlock index d s).quietAfter = s.quietAfter := rfl
@[simp] theorem writeBlock_freeCount (index : Nat) (d : List Byte) : (writeBlock index d s).freeCount = s.freeCount := rfl
@[simp] theorem writeBlock_hostIn (index : Nat) (d : List Byte) : (writeBlock index d s).hostIn = s.hostIn := rfl
@[simp] theorem writeBlock_portLog (index : Nat) (d : List Byte) : (writeBlock index d s).portLog = s.portLog := rfl

/-! What each of them does to a byte of storage. -/

@[simp] theorem byteAt_setPs (p : ProtState) (ref off : Nat) : byteAt (s.setPs p) ref off = byteAt s ref off := rfl
@[simp] theorem byteAt_setCtl (c : Ctl) (ref off : Nat) : byteAt (s.setCtl c) ref off = byteAt s ref off := rfl
@[simp] theorem byteAt_setFb (f : Vector Byte 64) (ref off : Nat) : byteAt (s.setFb f) ref off = byteAt s ref off := rfl
@[simp] theorem byteAt_logPort (op : PortOp) (ref off : Nat) : byteAt (logPort op s) ref off = byteAt s ref off := rfl
@[simp] theorem byteAt_startTx (src : TxSrc) (n : Nat) (after : Option ProtState) (ref off : Nat) : byteAt (startTx src n after s) ref off = byteAt s ref off := rfl
@[simp] theorem byteAt_answering (src : TxSrc) (bs : List Byte) (after : Option ProtState) (ref off : Nat) : byteAt (answering src bs after s) ref off = byteAt s ref off := rfl
@[simp] theorem byteAt_endCycle (ref off : Nat) : byteAt (endCycle s) ref off = byteAt s ref off := rfl
@[simp] theorem byteAt_fbWrite (i : Nat) (v : Byte) (ref off : Nat) : byteAt (fbWrite i v s) ref off = byteAt s ref off := rfl

end Sys2Proof.Machine
end

