-- ==== Sys2Proof/Laws/Memory.lean ====
section
/-! SUPPORT. The laws of the sparse maps: a read after a write, and that every operation keeps the canonical form. -/

namespace Sys2Proof.Machine

section sparse
variable {β : Type} {d : β}

/-- A key below every listed key reads as the unlisted value. -/
theorem sparseRead_of_all_gt (m : List (Nat × β)) (k : Nat) (h : m.all (fun e => decide (k < e.1)) = true) :
    sparseRead d m k = d := by
  induction m with
  | nil => rfl
  | cons e m ih =>
    simp only [List.all_cons, Bool.and_eq_true, decide_eq_true_eq] at h
    simp only [sparseRead, if_neg (show e.1 ≠ k by omega), ih h.2]

theorem all_gt_mono {m : List (Nat × β)} {a k : Nat} (h : m.all (fun e => decide (a < e.1)) = true) (hk : k ≤ a) :
    m.all (fun e => decide (k < e.1)) = true := by
  simp only [List.all_eq_true, decide_eq_true_eq] at *
  intro e he
  exact lt_of_le_of_lt hk (h e he)

variable [DecidableEq β]

@[simp] theorem sparseWf_cons (a : Nat) (v : β) (m : List (Nat × β)) :
    sparseWf d ((a, v) :: m) = true ↔
      v ≠ d ∧ m.all (fun e => decide (a < e.1)) = true ∧ sparseWf d m = true := by
  simp [sparseWf, and_assoc]

/-- The key written reads as the value written. -/
theorem sparseRead_sparseWrite_same (m : List (Nat × β)) (k : Nat) (v : β) (h : sparseWf d m = true) :
    sparseRead d (sparseWrite d m k v) k = v := by
  induction m with
  | nil => by_cases hv : v = d <;> simp [sparseWrite, sparseRead, hv]
  | cons e m ih =>
    obtain ⟨a, w⟩ := e
    rw [sparseWf_cons] at h
    obtain ⟨_, hall, hm⟩ := h
    unfold sparseWrite
    split
    · split
      · rename_i hk hv
        rw [hv, sparseRead, if_neg (by omega)]
        exact sparseRead_of_all_gt m k (all_gt_mono hall (by omega))
      · simp [sparseRead]
    · split
      · split
        · rename_i hk hv
          rw [hv]
          exact sparseRead_of_all_gt m k (all_gt_mono hall (by omega))
        · simp [sparseRead]
      · rw [sparseRead, if_neg (by omega), ih hm]

/-- Every other key reads as before. -/
theorem sparseRead_sparseWrite_other (m : List (Nat × β)) (k k' : Nat) (v : β) (hk : k' ≠ k) :
    sparseRead d (sparseWrite d m k v) k' = sparseRead d m k' := by
  induction m with
  | nil => by_cases hv : v = d <;> simp [sparseWrite, sparseRead, hv, Ne.symm hk]
  | cons e m ih =>
    obtain ⟨a, w⟩ := e
    unfold sparseWrite
    split
    · split
      · rfl
      · rw [sparseRead, if_neg (Ne.symm hk)]
    · split
      · rename_i _ ha
        split
        · rw [sparseRead, if_neg (by omega)]
        · rw [sparseRead, sparseRead, if_neg (Ne.symm hk), if_neg (by omega)]
      · rw [sparseRead, sparseRead, ih]

/-- Every entry of a written map is one it had, or the one written. -/
theorem mem_sparseWrite (m : List (Nat × β)) (k : Nat) (v : β) (e : Nat × β) (h : e ∈ sparseWrite d m k v) :
    e ∈ m ∨ e = (k, v) := by
  induction m with
  | nil =>
    by_cases hv : v = d <;> simp [sparseWrite, hv] at h
    simp [h]
  | cons f m ih =>
    obtain ⟨a, w⟩ := f
    unfold sparseWrite at h
    split at h
    · split at h
      · exact .inl h
      · exact (List.mem_cons.1 h).symm.imp id id
    · split at h
      · split at h
        · exact .inl (List.mem_cons_of_mem _ h)
        · exact (List.mem_cons.1 h).symm.imp (List.mem_cons_of_mem _) id
      · rcases List.mem_cons.1 h with h | h
        · exact .inl (h ▸ List.mem_cons_self)
        · exact (ih h).imp (List.mem_cons_of_mem _) id

theorem sparseWrite_all_gt (m : List (Nat × β)) (a k : Nat) (v : β)
    (h : m.all (fun e => decide (a < e.1)) = true) (hk : a < k) :
    (sparseWrite d m k v).all (fun e => decide (a < e.1)) = true := by
  simp only [List.all_eq_true, decide_eq_true_eq] at *
  intro e he
  rcases mem_sparseWrite m k v e he with h1 | h1
  · exact h e h1
  · rw [h1]; exact hk

/-- A write keeps the canonical form. -/
theorem sparseWf_sparseWrite (m : List (Nat × β)) (k : Nat) (v : β) (h : sparseWf d m = true) :
    sparseWf d (sparseWrite d m k v) = true := by
  induction m with
  | nil => by_cases hv : v = d <;> simp [sparseWrite, sparseWf, hv]
  | cons e m ih =>
    obtain ⟨a, w⟩ := e
    have h' := h
    rw [sparseWf_cons] at h
    obtain ⟨hw, hall, hm⟩ := h
    unfold sparseWrite
    split
    · rename_i hk
      split
      · exact h'
      · rename_i hv
        rw [sparseWf_cons]
        refine ⟨hv, ?_, h'⟩
        simp [hk, all_gt_mono hall (Nat.le_of_lt hk)]
    · split
      · rename_i hk
        split
        · exact hm
        · rename_i hv
          rw [sparseWf_cons]
          exact ⟨hv, hk ▸ hall, hm⟩
      · rw [sparseWf_cons]
        exact ⟨hw, sparseWrite_all_gt m a k v hall (by omega), ih hm⟩

omit [DecidableEq β] in
/-- A value read is the unlisted value or one that is listed. -/
theorem sparseRead_mem_or_default (m : List (Nat × β)) (k : Nat) :
    sparseRead d m k = d ∨ (k, sparseRead d m k) ∈ m := by
  induction m with
  | nil => exact .inl rfl
  | cons e m ih =>
    obtain ⟨a, w⟩ := e
    rw [sparseRead]
    split
    · rename_i ha
      exact .inr (by simp [ha])
    · exact ih.imp id (List.mem_cons_of_mem _)

end sparse

/-! ## The bytes of a region -/

@[simp] theorem Memory.read_nil (off : Nat) : Memory.read [] off = 0x00 := rfl

theorem Memory.read_write_same (m : Memory) (off : Nat) (v : Byte) (h : Memory.wf m = true) :
    Memory.read (Memory.write m off v) off = v := sparseRead_sparseWrite_same m off v h

theorem Memory.read_write_other (m : Memory) (off off' : Nat) (v : Byte) (h : off' ≠ off) :
    Memory.read (Memory.write m off v) off' = Memory.read m off' := sparseRead_sparseWrite_other m off off' v h

theorem Memory.wf_write (m : Memory) (off : Nat) (v : Byte) (h : Memory.wf m = true) :
    Memory.wf (Memory.write m off v) = true := sparseWf_sparseWrite m off v h

theorem Memory.wf_nil : Memory.wf [] = true := rfl

theorem regionWrite_wf (size : Nat) (m : Memory) (off : Nat) (v : Byte) (h : Memory.wf m = true) :
    Memory.wf (regionWrite size m off v) = true := by
  unfold regionWrite
  split
  · exact Memory.wf_write m off v h
  · exact h

theorem regionFill_wf (size : Nat) (m : Memory) (off : Nat) (vs : List Byte) (h : Memory.wf m = true) :
    Memory.wf (regionFill size m off vs) = true := by
  induction vs generalizing m off with
  | nil => exact h
  | cons v vs ih => exact ih _ _ (regionWrite_wf size m off v h)

/-- What one range-checked write does to every byte. -/
theorem read_regionWrite (size : Nat) (m : Memory) (off : Nat) (v : Byte) (h : Memory.wf m = true) (off' : Nat) :
    Memory.read (regionWrite size m off v) off' = if off' = off ∧ off < size then v else Memory.read m off' := by
  unfold regionWrite
  split
  · by_cases ho : off' = off
    · subst ho
      simp_all [Memory.read_write_same]
    · simp [ho, Memory.read_write_other]
  · simp_all

/-- What a run of range-checked writes does to every byte. -/
theorem read_regionFill (size : Nat) (m : Memory) (off : Nat) (vs : List Byte) (h : Memory.wf m = true) (off' : Nat) :
    Memory.read (regionFill size m off vs) off' =
      if off ≤ off' ∧ off' < off + vs.length ∧ off' < size then vs.getD (off' - off) 0 else Memory.read m off' := by
  induction vs generalizing m off with
  | nil => simp [regionFill, show ¬ (off ≤ off' ∧ off' < off ∧ off' < size) by omega]
  | cons v vs ih =>
    rw [regionFill, ih _ _ (regionWrite_wf size m off v h), read_regionWrite size m off v h]
    by_cases h1 : off' = off
    · subst h1
      by_cases h2 : off' < size
      · simp [h2]
      · simp [h2]
    · by_cases h2 : off + 1 ≤ off' ∧ off' < off + 1 + vs.length ∧ off' < size
      · obtain ⟨n, hn⟩ : ∃ n, off' - off = n + 1 := ⟨off' - off - 1, by omega⟩
        rw [if_pos h2, if_pos (by simp only [List.length_cons]; omega), hn,
          show off' - (off + 1) = n by omega, List.getD_cons_succ]
      · rw [if_neg h2, if_neg (by omega), if_neg (by simp only [List.length_cons]; omega)]

/-! ## The regions not bound -/

theorem Regions.wf_nil : Regions.wf [] = true := rfl

theorem Regions.read_write_same (r : Regions) (ref : Nat) (m : Memory) (h : Regions.wf r = true) :
    Regions.read (Regions.write r ref m) ref = m := by
  rw [Regions.wf, Bool.and_eq_true] at h
  exact sparseRead_sparseWrite_same r ref m h.1

theorem Regions.read_write_other (r : Regions) (ref ref' : Nat) (m : Memory) (h : ref' ≠ ref) :
    Regions.read (Regions.write r ref m) ref' = Regions.read r ref' := sparseRead_sparseWrite_other r ref ref' m h

theorem Regions.wf_write (r : Regions) (ref : Nat) (m : Memory) (h : Regions.wf r = true) (hm : Memory.wf m = true) :
    Regions.wf (Regions.write r ref m) = true := by
  rw [Regions.wf, Bool.and_eq_true, List.all_eq_true] at *
  refine ⟨sparseWf_sparseWrite r ref m h.1, fun e he => ?_⟩
  rcases mem_sparseWrite r ref m e he with h1 | h1
  · exact h.2 e h1
  · rw [h1]; exact hm

/-- A region read from canonical regions is canonical. -/
theorem Regions.wf_read (r : Regions) (ref : Nat) (h : Regions.wf r = true) :
    Memory.wf (Regions.read r ref) = true := by
  rw [Regions.wf, Bool.and_eq_true, List.all_eq_true] at h
  rcases sparseRead_mem_or_default (d := ([] : Memory)) r ref with h1 | h1
  · rw [Regions.read, h1]; rfl
  · exact h.2 _ h1

/-- Storage is canonical at reset. -/
theorem reset_storage_wf : Memory.wf State.reset.storage = true ∧ Regions.wf State.reset.unbound = true := ⟨rfl, rfl⟩

end Sys2Proof.Machine
end

