-- ==== Sys2Proof/Laws/Ops.lean ====
section
/-! SUPPORT. One lemma per shared operation that says once what it can do; later proofs cite these instead of unfolding. -/

namespace Sys2Proof.Machine

/-! ## Frame buffer -/

theorem fbRead_setFb (s : State) (f : Vector Byte 64) (i : Nat) : fbRead (s.setFb f) i = f[i]?.getD 0 := rfl

/-- What one write does to every byte of FB. -/
theorem fbRead_fbWrite (s : State) (i j : Nat) (v : Byte) :
    fbRead (fbWrite i v s) j = if j = i ∧ i < 64 then v else fbRead s j := by
  simp only [fbWrite, fbRead_setFb, Vector.getElem?_setIfInBounds]
  by_cases h : i = j
  · subst h
    by_cases hi : i < 64
    · simp [hi]
    · simp [hi, fbRead]
  · simp [h, Ne.symm h, fbRead]

theorem fbRead_of_ge (s : State) (i : Nat) (h : 64 ≤ i) : fbRead s i = 0 := by
  simp [fbRead, h]

/-- What filling does to every byte of FB. -/
theorem getElem?_fbFill (f : Vector Byte 64) (i : Nat) (bs : List Byte) (j : Nat) :
    (fbFill f i bs)[j]?.getD 0 =
      if i ≤ j ∧ j < i + bs.length ∧ j < 64 then bs.getD (j - i) 0 else f[j]?.getD 0 := by
  induction bs generalizing f i with
  | nil => simp [fbFill, show ¬ (i ≤ j ∧ j < i ∧ j < 64) by omega]
  | cons b bs ih =>
    rw [fbFill, ih]
    by_cases h1 : j = i
    · subst h1
      by_cases h2 : j < 64
      · simp [h2]
      · simp [h2]
    · by_cases h2 : i + 1 ≤ j ∧ j < i + 1 + bs.length ∧ j < 64
      · obtain ⟨n, hn⟩ : ∃ n, j - i = n + 1 := ⟨j - i - 1, by omega⟩
        rw [if_pos h2, if_pos (by simp only [List.length_cons]; omega), hn, show j - (i + 1) = n by omega,
          List.getD_cons_succ]
      · rw [if_neg h2, if_neg (by simp only [List.length_cons]; omega), Vector.getElem?_setIfInBounds,
          if_neg (Ne.symm h1)]

/-- Reading through the list of FB's bytes is reading FB. -/
theorem toList_getD (s : State) (i : Nat) : s.fb.toList.getD i 0 = fbRead s i := by
  simp [fbRead, List.getD_eq_getElem?_getD]

theorem received_length (s : State) (h : s.rxBytes ≤ 64) : (received s).length = s.rxBytes := by
  simp [received, h]

theorem received_length_le (s : State) : (received s).length ≤ 64 := by
  simp [received]

theorem received_getD (s : State) (i : Nat) (h : i < s.rxBytes) : (received s).getD i 0 = fbRead s i := by
  rw [← toList_getD, List.getD_eq_getElem?_getD, List.getD_eq_getElem?_getD, received, List.getElem?_take_of_lt h]

/-! ## Ending a cycle, falling back, transmitting -/

/-- `anythingElse` ends the cycle and writes PS in two cases only. -/
theorem anythingElse_eq (s : State) :
    anythingElse s =
      endCycle (s.setPs
        (if s.ps.phase = .ready ∨ (s.ps.phase = .active ∧ s.rxBytes ≠ 0) then ⟨.idle, s.ps.halted⟩ else s.ps)) := by
  unfold anythingElse
  cases h : s.ps.phase
  · rfl
  · simp
  · by_cases h0 : s.rxBytes = 0
    · simp [h0]; rfl
    · simp [h0]

/-- The call of `txManchester` with a byte to send begins the transmission. -/
theorem txManchester_of_ne_zero (src : TxSrc) (n : Nat) (after : Option ProtState) (s : State) (h : n ≠ 0) :
    txManchester src n after s = .next (startTx src n after s) := if_neg h

@[simp] theorem txManchester_succ (src : TxSrc) (n : Nat) (after : Option ProtState) (s : State) :
    txManchester src (n + 1) after s = .next (startTx src (n + 1) after s) := if_neg (Nat.succ_ne_zero n)

/-- What is owed depends on PS, the static frames and the received frame only. -/
theorem owed_congr {s w : State} {p : ProtState} (h1 : w.ps = s.ps) (h2 : w.statics = s.statics) (h3 : w.fb = s.fb)
    (h4 : w.rxBytes = s.rxBytes) (h : Owed s p) : Owed w p := by
  simpa only [Owed, received, h1, h2, h3, h4] using h

/-- Beginning a transmission of a buffer's first `n` bytes is answering with them. -/
theorem startTx_eq_answering (src : TxSrc) (n : Nat) (after : Option ProtState) (s : State) (bs : List Byte)
    (h : (srcBytes s src).take n = bs) (hn : bs.length = n) : startTx src n after s = answering src bs after s := by
  subst hn
  unfold startTx answering
  rw [h]

/-! ## The meanings, each with its two outcomes -/

theorem execReqa_cases (s : State) :
    (s.ps = ⟨.idle, false⟩ ∧ execReqa s = .next (startTx .atqa 2 (some ⟨.ready, false⟩) s)) ∨
    (s.ps ≠ ⟨.idle, false⟩ ∧ execReqa s = .next (anythingElse s)) := by
  unfold execReqa; split <;> simp_all

theorem execWupa_cases (s : State) :
    (s.ps = ⟨.idle, true⟩ ∧ execWupa s = .next (startTx .atqa 2 (some ⟨.ready, true⟩) s)) ∨
    (s.ps ≠ ⟨.idle, true⟩ ∧ execWupa s = .next (anythingElse s)) := by
  unfold execWupa; split <;> simp_all

theorem execAnticollCl1_cases (s : State) :
    (s.ps.phase = .ready ∧ execAnticollCl1 s = .next (startTx .ctUid1 5 none s)) ∨
    (s.ps.phase ≠ .ready ∧ execAnticollCl1 s = .next (anythingElse s)) := by
  unfold execAnticollCl1; split <;> simp_all

theorem execAnticollCl2_cases (s : State) :
    (s.ps.phase = .ready ∧ execAnticollCl2 s = .next (startTx .uid2 5 none s)) ∨
    (s.ps.phase ≠ .ready ∧ execAnticollCl2 s = .next (anythingElse s)) := by
  unfold execAnticollCl2; split <;> simp_all

theorem execSelectCl1_cases (s : State) :
    (s.ps.phase = .ready ∧ execSelectCl1 s = .next (startTx .sakNc 3 none s)) ∨
    (s.ps.phase ≠ .ready ∧ execSelectCl1 s = .next (anythingElse s)) := by
  unfold execSelectCl1; split <;> simp_all

theorem execSelectCl2_cases (s : State) :
    (s.ps.phase = .ready ∧ execSelectCl2 s = .next (startTx .sakC 3 (some ⟨.active, s.ps.halted⟩) s)) ∨
    (s.ps.phase ≠ .ready ∧ execSelectCl2 s = .next (anythingElse s)) := by
  unfold execSelectCl2 keepHalted; split <;> simp_all

theorem execRead_cases (block : Byte) (s : State) :
    (s.ps.phase = .active ∧
      execRead block s = .next (startTx .fb 18 none (s.setFb (fbFill s.fb 0 (withCrc (readData s block)))))) ∨
    (s.ps.phase ≠ .active ∧ execRead block s = .next (anythingElse s)) := by
  unfold execRead; split <;> simp_all

theorem execWrite_cases (block : Byte) (rest : List Byte) (s : State) :
    (s.ps.phase = .active ∧ writeAccepted block rest = true ∧
      execWrite block rest s =
        .next (startTx .fb 1 none (fbWrite 0 Config.ack (writeBlock block.toNat (writeData rest) s)))) ∨
    (s.ps.phase = .active ∧ writeAccepted block rest = false ∧
      execWrite block rest s = .next (startTx .fb 1 none (fbWrite 0 Config.nak s))) ∨
    (s.ps.phase ≠ .active ∧ execWrite block rest s = .next (anythingElse s)) := by
  unfold execWrite; split
  · split <;> simp_all
  · simp_all

theorem execHlta_cases (s : State) :
    (s.ps.phase = .active ∧ execHlta s = .next (endCycle (s.setPs ⟨.idle, true⟩))) ∨
    (s.ps.phase ≠ .active ∧ execHlta s = .next (anythingElse s)) := by
  unfold execHlta; split <;> simp_all

/-! ## The port -/

/-- A listed edge within the deadline is reported and used up. -/
theorem btpWaitEdge_edge (d t : Nat) (q : List PortAnswer) (s : State) (h : s.edgeIn = .edge t :: q) (ht : t ≤ d) :
    btpWaitEdge d s = logPort (.waitEdge d (.edge t)) { s with rxR := .edge t, edgeIn := q } := by
  simp [btpWaitEdge, h, answerBy, ht]

/-- A listed edge after the deadline stays listed, counted from the deadline. -/
theorem btpWaitEdge_later (d t : Nat) (q : List PortAnswer) (s : State) (h : s.edgeIn = .edge t :: q) (ht : d < t) :
    btpWaitEdge d s = logPort (.waitEdge d .quiet) { s with rxR := .quiet, edgeIn := .edge (t - d) :: q } := by
  simp [btpWaitEdge, h, answerBy, Nat.not_le.2 ht]

/-- A listed Quiet is reported and used up. -/
theorem btpWaitEdge_quiet (d : Nat) (q : List PortAnswer) (s : State) (h : s.edgeIn = .quiet :: q) :
    btpWaitEdge d s = logPort (.waitEdge d .quiet) { s with rxR := .quiet, edgeIn := q } := by
  simp [btpWaitEdge, h]

/-- Silence after the listed answers. -/
theorem btpWaitEdge_silent (d : Nat) (s : State) (h : s.edgeIn = []) (hq : s.quietAfter = true) :
    btpWaitEdge d s = logPort (.waitEdge d .quiet) { s with rxR := .quiet } := by
  simp [btpWaitEdge, h, hq]

/-! ## The decoder -/

/-- A roll either clears the next byte or is refused. -/
theorem roll_cases (s : State) :
    (s.bytePos + 1 < 64 ∧
      roll s = .next (fbWrite (s.bytePos + 1) 0x00 { s with bytePos := s.bytePos + 1, hbitPos := s.hbitPos - 18 })) ∨
    (64 ≤ s.bytePos + 1 ∧ roll s = .refused .rxOverrun) := by
  by_cases h : 64 ≤ s.bytePos + 1
  · exact .inr ⟨h, if_pos h⟩
  · exact .inl ⟨by omega, if_neg h⟩

/-- An advance within the character moves the position; one past it rolls. -/
theorem advance_cases (n : Nat) (s : State) :
    (s.hbitPos + n < 18 ∧ advance n s = .next { s with hbitPos := s.hbitPos + n }) ∨
    (18 ≤ s.hbitPos + n ∧ advance n s = roll { s with hbitPos := s.hbitPos + n }) := by
  by_cases h : 18 ≤ s.hbitPos + n
  · exact .inr ⟨h, if_pos h⟩
  · exact .inl ⟨by omega, if_neg h⟩

/-! ## Storage -/

theorem memRead_eq (s : State) (off : Nat) :
    memRead s off = if off < s.storageSize then byteAt s s.storageRef off else 0x00 := by
  simp [memRead, byteAt]

/-- What a block write does to every byte of every region. -/
theorem byteAt_writeBlock (index : Nat) (d : List Byte) (s : State) (h : Memory.wf s.storage = true) (ref off : Nat) :
    byteAt (writeBlock index d s) ref off =
      if ref = s.storageRef ∧ 4 * index ≤ off ∧ off < 4 * index + d.length ∧ off < s.storageSize then
        d.getD (off - 4 * index) 0
      else byteAt s ref off := by
  unfold byteAt writeBlock
  by_cases hr : ref = s.storageRef
  · simp only [setStorage_storageRef, setStorage_storage, hr, if_true, blockOffset, true_and]
    rw [read_regionFill _ _ _ _ h]
    rfl
  · simp [hr]

end Sys2Proof.Machine
end

