-- ==== Sys2Proof/Laws/PerInstr.lean ====
section
/-! SUPPORT. Facts about every instruction as syntax, one lemma per constructor. -/

namespace Sys2Proof.Laws

/-- The columns `match` and `min_bytes` of spec/opcode_table.json. -/
def tablePattern : Instr → List Byte
  | .reqa => [0x26]
  | .wupa => [0x52]
  | .anticollCl1 => [0x93, 0x20]
  | .anticollCl2 => [0x95, 0x20]
  | .selectCl1 => [0x93, 0x70]
  | .selectCl2 => [0x95, 0x70]
  | .read _ => [0x30]
  | .write _ _ => [0xA2]
  | .hlta => [0x50, 0x00, 0x57, 0xCD]

def tableMinBytes : Instr → Nat
  | .reqa => 1
  | .wupa => 1
  | .anticollCl1 => 2
  | .anticollCl2 => 2
  | .selectCl1 => 2
  | .selectCl2 => 2
  | .read _ => 2
  | .write _ _ => 2
  | .hlta => 4

/-- The encoding of a well-formed instruction begins with its row's pattern, has at least the row's least number of bytes, and
fits the frame buffer (30_encoding.md R80, 10_state.md R20). -/
def FitsItsRow.Statement (i : Instr) : Prop :=
  i.wellFormed = true →
    beginsWith (tablePattern i) (encode i) = true ∧ tableMinBytes i ≤ (encode i).length ∧
      (encode i).length ≤ Config.fbCap

theorem FitsItsRow.reqa : FitsItsRow.Statement .reqa := fun _ => by decide

theorem FitsItsRow.wupa : FitsItsRow.Statement .wupa := fun _ => by decide

theorem FitsItsRow.anticollCl1 : FitsItsRow.Statement .anticollCl1 := fun _ => by decide

theorem FitsItsRow.anticollCl2 : FitsItsRow.Statement .anticollCl2 := fun _ => by decide

theorem FitsItsRow.selectCl1 : FitsItsRow.Statement .selectCl1 := fun _ => by decide

theorem FitsItsRow.selectCl2 : FitsItsRow.Statement .selectCl2 := fun _ => by decide

theorem FitsItsRow.read (block : Byte) : FitsItsRow.Statement (.read block) := fun _ => by
  simp [tablePattern, tableMinBytes, encode, Config.cmdRead, Config.fbCap]

theorem FitsItsRow.write (block : Byte) (rest : List Byte) : FitsItsRow.Statement (.write block rest) := fun h => by
  simp only [Instr.wellFormed, decide_eq_true_eq] at h
  simp [tablePattern, tableMinBytes, encode, Config.cmdWrite, h]

theorem FitsItsRow.hlta : FitsItsRow.Statement .hlta := fun _ => by decide

end Sys2Proof.Laws
end

