-- ==== Sys2Proof/Laws/Step.lean ====
section
/-! SUPPORT. Said once: what a command can do, what a dispatch can do, what every other step can do, and what the port and the
decoder's advance can do. Proofs about all steps cite these instead of unfolding the machine. -/

namespace Sys2Proof.Machine

/-! ## Dispatch -/

/-- The states in which the dispatch of command `i` at `s` can end. -/
inductive Effect (i : Instr) (s : State) : State → Prop
  | other : Effect i s (anythingElse s)
  | reqa : i = .reqa → s.ps = ⟨.idle, false⟩ → Effect i s (startTx .atqa 2 (some ⟨.ready, false⟩) s)
  | wupa : i = .wupa → s.ps = ⟨.idle, true⟩ → Effect i s (startTx .atqa 2 (some ⟨.ready, true⟩) s)
  | anticollCl1 : i = .anticollCl1 → s.ps.phase = .ready → Effect i s (startTx .ctUid1 5 none s)
  | anticollCl2 : i = .anticollCl2 → s.ps.phase = .ready → Effect i s (startTx .uid2 5 none s)
  | selectCl1 : i = .selectCl1 → s.ps.phase = .ready → Effect i s (startTx .sakNc 3 none s)
  | selectCl2 : i = .selectCl2 → s.ps.phase = .ready →
      Effect i s (startTx .sakC 3 (some ⟨.active, s.ps.halted⟩) s)
  | read (block : Byte) : i = .read block → s.ps.phase = .active →
      Effect i s (startTx .fb 18 none (s.setFb (fbFill s.fb 0 (withCrc (readData s block)))))
  | accepted (block : Byte) (rest : List Byte) : i = .write block rest → s.ps.phase = .active →
      writeAccepted block rest = true →
      Effect i s (startTx .fb 1 none (fbWrite 0 Config.ack (writeBlock block.toNat (writeData rest) s)))
  | refused (block : Byte) (rest : List Byte) : i = .write block rest → s.ps.phase = .active →
      writeAccepted block rest = false → Effect i s (startTx .fb 1 none (fbWrite 0 Config.nak s))
  | hlta : i = .hlta → s.ps.phase = .active → Effect i s (endCycle (s.setPs ⟨.idle, true⟩))

/-- Every command, in every state, ends in a next state, one of those above. -/
theorem exec_effect (i : Instr) (s : State) : ∃ u, exec i s = .next u ∧ Effect i s u := by
  cases i with
  | reqa =>
    rcases execReqa_cases s with ⟨a, b⟩ | ⟨_, b⟩
    · exact ⟨_, b, .reqa rfl a⟩
    · exact ⟨_, b, .other⟩
  | wupa =>
    rcases execWupa_cases s with ⟨a, b⟩ | ⟨_, b⟩
    · exact ⟨_, b, .wupa rfl a⟩
    · exact ⟨_, b, .other⟩
  | anticollCl1 =>
    rcases execAnticollCl1_cases s with ⟨a, b⟩ | ⟨_, b⟩
    · exact ⟨_, b, .anticollCl1 rfl a⟩
    · exact ⟨_, b, .other⟩
  | anticollCl2 =>
    rcases execAnticollCl2_cases s with ⟨a, b⟩ | ⟨_, b⟩
    · exact ⟨_, b, .anticollCl2 rfl a⟩
    · exact ⟨_, b, .other⟩
  | selectCl1 =>
    rcases execSelectCl1_cases s with ⟨a, b⟩ | ⟨_, b⟩
    · exact ⟨_, b, .selectCl1 rfl a⟩
    · exact ⟨_, b, .other⟩
  | selectCl2 =>
    rcases execSelectCl2_cases s with ⟨a, b⟩ | ⟨_, b⟩
    · exact ⟨_, b, .selectCl2 rfl a⟩
    · exact ⟨_, b, .other⟩
  | read block =>
    rcases execRead_cases block s with ⟨a, b⟩ | ⟨_, b⟩
    · exact ⟨_, b, .read block rfl a⟩
    · exact ⟨_, b, .other⟩
  | write block rest =>
    rcases execWrite_cases block rest s with ⟨a, c, b⟩ | ⟨a, c, b⟩ | ⟨_, b⟩
    · exact ⟨_, b, .accepted block rest rfl a c⟩
    · exact ⟨_, b, .refused block rest rfl a c⟩
    · exact ⟨_, b, .other⟩
  | hlta =>
    rcases execHlta_cases s with ⟨a, b⟩ | ⟨_, b⟩
    · exact ⟨_, b, .hlta rfl a⟩
    · exact ⟨_, b, .other⟩

theorem decodeFrame_nil (hlta : List Byte) : decodeFrame hlta [] = .error .emptyFrame := by
  simp [decodeFrame, Config.fbCap]

/-- A step at S_DISPATCH ends in a next state: "anything else", or an effect of the command the frame decodes to. -/
theorem stepDispatch_cases (s : State) :
    ∃ u, stepDispatch s = .next u ∧
      (u = anythingElse s ∨ ∃ i, decodeFrame s.statics.hlta (received s) = .ok i ∧ s.rxBytes ≠ 0 ∧ Effect i s u) := by
  unfold stepDispatch
  split
  · rename_i i hi
    obtain ⟨u, h, e⟩ := exec_effect i s
    refine ⟨u, h, .inr ⟨i, hi, fun h0 => ?_, e⟩⟩
    rw [received, h0, List.take_zero, decodeFrame_nil] at hi
    simp at hi
  · exact ⟨_, rfl, .inl rfl⟩

/-! ## The port -/

/-- `waitEdge` writes its answer and what belongs to the port. -/
theorem btpWaitEdge_frame (d : Nat) (s : State) :
    ∃ r e n l, btpWaitEdge d s = { s with rxR := r, edgeIn := e, freeCount := n, portLog := l } := by
  unfold btpWaitEdge
  split
  · exact ⟨_, _, _, _, rfl⟩
  · exact ⟨_, _, _, _, rfl⟩
  · split <;> exact ⟨_, _, _, _, rfl⟩

theorem btpCarrier_frame (s : State) :
    ∃ q n l, (btpCarrier s).2 = { s with carrierIn := q, freeCount := n, portLog := l } := by
  unfold btpCarrier
  split <;> exact ⟨_, _, _, rfl⟩

/-! ## The decoder -/

theorem gapExtra_le (p : Params) (t : Nat) : gapExtra p t ≤ 2 := by
  unfold gapExtra; split <;> split <;> omega

/-- An advance writes FB and the position, or is refused. -/
theorem advance_frame (n : Nat) (s : State) :
    (∃ f h b, advance n s = .next { s with fb := f, hbitPos := h, bytePos := b }) ∨
      advance n s = .refused .rxOverrun := by
  rcases advance_cases n s with ⟨_, h⟩ | ⟨_, h⟩
  · exact .inl ⟨s.fb, _, s.bytePos, h⟩
  · rcases roll_cases { s with hbitPos := s.hbitPos + n } with ⟨_, h2⟩ | ⟨_, h2⟩
    · exact .inl ⟨_, _, _, h.trans h2⟩
    · exact .inr (h.trans h2)

/-- An advance by at most two slots that stays within the frame buffer: the position counted as 18*BYTEPOS + HBITPOS grows by
it, and a byte that is entered is cleared. -/
theorem advance_within (n : Nat) (s : State) (hh : s.hbitPos ≤ 17) (hn : n ≤ 2)
    (hw : 18 * s.bytePos + s.hbitPos + n < 18 * 64) :
    ∃ u, advance n s = .next u ∧ u.hbitPos ≤ 17 ∧
      18 * u.bytePos + u.hbitPos = 18 * s.bytePos + s.hbitPos + n ∧
      (u.bytePos = s.bytePos ∨ u.bytePos = s.bytePos + 1) ∧
      (∀ j < 64, fbRead u j = if s.bytePos < j ∧ j ≤ u.bytePos then 0 else fbRead s j) ∧
      u = { s with fb := u.fb, hbitPos := u.hbitPos, bytePos := u.bytePos } := by
  rcases advance_cases n s with ⟨h1, h2⟩ | ⟨h1, h2⟩
  · refine ⟨_, h2, by simp only; omega, by simp only; omega, .inl rfl, fun j _ => ?_, rfl⟩
    simp only; rw [if_neg (by omega)]; rfl
  · rcases roll_cases { s with hbitPos := s.hbitPos + n } with ⟨h3, h4⟩ | ⟨h3, _⟩
    · simp only at h3
      refine ⟨_, h2.trans h4, ?_, ?_, .inr rfl, fun j hj => ?_, rfl⟩
      · show s.hbitPos + n - 18 ≤ 17; omega
      · show 18 * (s.bytePos + 1) + (s.hbitPos + n - 18) = _; omega
      · rw [fbRead_fbWrite]
        show (if j = s.bytePos + 1 ∧ _ then _ else fbRead s j) =
          if s.bytePos < j ∧ j ≤ s.bytePos + 1 then _ else _
        by_cases hj' : j = s.bytePos + 1
        · rw [if_pos ⟨hj', h3⟩, if_pos (by omega)]
        · rw [if_neg (by tauto), if_neg (by omega)]
    · simp only at h3; omega

/-- An advance that leaves the frame buffer is refused. -/
theorem advance_beyond (n : Nat) (s : State) (hb : s.bytePos < 64) (hw : 18 * 64 ≤ 18 * s.bytePos + s.hbitPos + n)
    (hh : s.hbitPos ≤ 17) (hn : n ≤ 2) : advance n s = .refused .rxOverrun := by
  rcases advance_cases n s with ⟨h1, _⟩ | ⟨_, h2⟩
  · omega
  · rcases roll_cases { s with hbitPos := s.hbitPos + n } with ⟨h3, _⟩ | ⟨_, h4⟩
    · simp only at h3; omega
    · exact h2.trans h4

/-- An edge writes FB, the position, `t` and `e`, or is refused. -/
theorem rxEdge_frame (t : Nat) (s : State) :
    (∃ f h b, rxEdge t s =
      .next { s with fb := f, hbitPos := h, bytePos := b, rxT := t, rxE := gapExtra s.params t }) ∨
      rxEdge t s = .refused .rxOverrun := by
  unfold rxEdge
  rcases advance_frame (gapExtra s.params t) { s with rxT := t, rxE := gapExtra s.params t } with ⟨f, h, b, e⟩ | e
  · rw [e]
    rcases advance_frame 2 (orMask
      { s with fb := f, hbitPos := h, bytePos := b, rxT := t, rxE := gapExtra s.params t }) with ⟨f', h', b', e'⟩ | e'
    · exact .inl ⟨f', h', b', e'⟩
    · exact .inr e'
  · rw [e]; exact .inr rfl

end Sys2Proof.Machine
end

