-- ==== Sys2Proof/Tests/Slice0.lean ====
section
/-! SUPPORT. Tests. The expected results are the vectors of spec/95_test_vectors.md, named in the comments, or words written out
from the encodings of 30_encoding.md; and one witness for every obligation with hypotheses. -/

namespace Sys2Proof.Tests

open Sys2Proof Sys2Proof.Machine

set_option maxRecDepth 40000

/-! ## Small states -/

/-- The parameters of 95_test_vectors.md, reply delays 10 and 20. -/
def params : Params :=
  { tBit := 128, rxTimeoutBits := 4, fdtTicks0 := 10, fdtTicks1 := 20, paritySeed := false, uid := Config.defaultUid }

/-- Storage bytes 00 01 02 ... (an unlisted byte reads 00). -/
def counting (n : Nat) : Memory := (List.range (n - 1)).map (fun k => (k + 1, BitVec.ofNat 8 (k + 1)))

/-- After `initialize` with a region of `size` bytes, at control position `c`. -/
def at_ (c : Ctl) (size : Nat) (m : Memory) : State :=
  { State.reset with params := params, storageRef := 0, storageSize := size, storage := m, retry := 8, ctl := c }

/-- The frame `bs` received in `ps`. -/
def got (ps : ProtState) (bs : List Byte) (size : Nat) (m : Memory) : State :=
  placeFrame bs { at_ .dispatch size m with ps := ps }

/-- The same over twenty counting bytes. -/
def got20 (ps : ProtState) (bs : List Byte) : State := got ps bs 20 (counting 20)

/-- Inside `rxMiller`, the port about to answer `q`. -/
def hearing (p : RxPoint) (q : List PortAnswer) : State := { at_ (.rx p) 20 [] with rxC := 4, edgeIn := q }

/-- What a step sent, and PS when the command is over. -/
def sent (r : Result) : Option (List Byte × ProtState) :=
  match r with
  | .next u => some ((u.txLog.map TxRecord.bytes).flatten, u.psAfter.getD u.ps)
  | .fault _ => none
  | .refused _ => none

/-- Bytes of the bound region after a step. -/
def bytesAfter (r : Result) (offs : List Nat) : Option (List Byte) :=
  match r with
  | .next u => some (offs.map (fun o => Memory.read u.storage o))
  | .fault _ => none
  | .refused _ => none

/-- Whether a step ended in a state with property `f`. -/
def nextWith (r : Result) (f : State → Bool) : Bool :=
  match r with
  | .next u => f u
  | .fault _ => false
  | .refused _ => false

abbrev idle : ProtState := ⟨.idle, false⟩
abbrev halt : ProtState := ⟨.idle, true⟩
abbrev ready : ProtState := ⟨.ready, false⟩
abbrev readyHalted : ProtState := ⟨.ready, true⟩
abbrev active : ProtState := ⟨.active, false⟩
abbrev activeHalted : ProtState := ⟨.active, true⟩

/-! ## Well-formedness: a WRITE frame of more than 64 bytes is no received frame (R20, R21) -/

theorem test_wellFormed_write_65_bytes_refused :
    (Instr.write 0x04 (List.replicate 63 0x00)).wellFormed = false := by decide

theorem test_wellFormed_write_64_bytes_accepted :
    (Instr.write 0x04 (List.replicate 62 0x00)).wellFormed = true := by decide

theorem test_wellFormed_all_others : [Instr.reqa, .wupa, .anticollCl1, .anticollCl2, .selectCl1, .selectCl2, .read 0xFF,
    .hlta].all Instr.wellFormed = true := by decide

/-! ## Decoding: every constructor, from bits written out from 30_encoding.md (first byte least significant) -/

-- 26
theorem test_decode_reqa : decodeTableWord 8 0b00100110 = some .reqa := by decide
-- 52
theorem test_decode_wupa : decodeTableWord 8 0b01010010 = some .wupa := by decide
-- 93 20
theorem test_decode_anticollCl1 : decodeTableWord 16 0b0010000010010011 = some .anticollCl1 := by decide
-- 95 20
theorem test_decode_anticollCl2 : decodeTableWord 16 0b0010000010010101 = some .anticollCl2 := by decide
-- 93 70
theorem test_decode_selectCl1 : decodeTableWord 16 0b0111000010010011 = some .selectCl1 := by decide
-- 95 70
theorem test_decode_selectCl2 : decodeTableWord 16 0b0111000010010101 = some .selectCl2 := by decide
-- 30 04
theorem test_decode_read : decodeTableWord 16 0b0000010000110000 = some (.read 0x04) := by decide
-- A2 04 01 02 03 04 78 57
theorem test_decode_write : decodeTableWord 64
    0b0101011101111000000001000000001100000010000000010000010010100010 =
      some (.write 0x04 [0x01, 0x02, 0x03, 0x04, 0x78, 0x57]) := by decide
-- 50 00 57 CD
theorem test_decode_hlta : decodeTableWord 32 0b11001101010101110000000001010000 = some .hlta := by decide

-- R82: shorter than its pattern, another NVB byte, a bare READ, HLTA with a wrong CRC, no frame, an unknown first byte
theorem test_decode_rejects : [[0x93], [0x93, 0x21], [0x30], [0x50, 0x00, 0x57, 0xCC], [], [0x00]].map decode =
    [.error .truncated, .error .unknownCommand, .error .truncated, .error .unknownCommand, .error .emptyFrame,
      .error .unknownCommand] := by rfl

-- trailing bytes are ignored where R171 ignores them, and belong to WRITE
theorem test_decode_trailing : [[0x93, 0x70, 0x88, 0x04], [0x30, 0x00, 0x02, 0xA8], [0x26, 0x00], [0xA2, 0x04]].map decode =
    [.ok .selectCl1, .ok (.read 0x00), .ok .reqa, .ok (.write 0x04 [])] := by rfl

/-! ## Commands: one step each -/

-- V-P1
theorem test_reqa_idle : sent (step (got20 idle [0x26])) = some ([0x44, 0x00], ready) := by decide
-- V-P4
theorem test_reqa_halt : sent (step (got20 halt [0x26])) = some ([], halt) := by decide
-- V-P2
theorem test_wupa_halt : sent (step (got20 halt [0x52])) = some ([0x44, 0x00], readyHalted) := by decide
-- V-P3
theorem test_wupa_idle : sent (step (got20 idle [0x52])) = some ([], idle) := by decide
-- V-P24
theorem test_anticollCl1_ready :
    sent (step (got20 ready [0x93, 0x20])) = some ([0x88, 0x04, 0xE3, 0xEF, 0x80], ready) := by decide
-- V-P6
theorem test_anticollCl1_idle : sent (step (got20 idle [0x93, 0x20])) = some ([], idle) := by decide
-- V-P25
theorem test_anticollCl2_ready :
    sent (step (got20 ready [0x95, 0x20])) = some ([0xA2, 0xEF, 0x20, 0x80, 0xED], ready) := by decide
-- V-P28: the UID and the CRC of a select are not looked at
theorem test_selectCl1_wrong_uid : sent (step (got20 ready [0x93, 0x70, 0, 0, 0, 0, 0, 0, 0])) =
    some ([0x04, 0xDA, 0x17], ready) := by decide
-- V-P29
theorem test_selectCl2_ready : sent (step (got20 ready [0x95, 0x70])) = some ([0x00, 0xFE, 0x51], active) := by decide
-- V-P30
theorem test_selectCl2_keeps_halted : sent (step (got20 readyHalted [0x95, 0x70, 0xA2, 0xEF, 0x20, 0x80, 0xED, 0x72, 0xC8])) =
    some ([0x00, 0xFE, 0x51], activeHalted) := by decide
-- V-P7
theorem test_read_block_0 : sent (step (got20 active [0x30, 0x00])) =
    some ([0x00, 0x01, 0x02, 0x03, 0x04, 0x05, 0x06, 0x07, 0x08, 0x09, 0x0A, 0x0B, 0x0C, 0x0D, 0x0E, 0x0F, 0x77, 0xF5],
      active) := by decide
-- V-P8: the last block in range, then offsets 1024 and on read 00
theorem test_read_across_the_end : sent (step (got active [0x30, 0xFF, 0x7A, 0xA7] 1024
    [(1020, 0xAA), (1021, 0xBB), (1022, 0xCC), (1023, 0xDD)])) =
    some ([0xAA, 0xBB, 0xCC, 0xDD, 0, 0, 0, 0, 0, 0, 0, 0, 0, 0, 0, 0, 0xAB, 0x23], active) := by decide
-- V-P15: a block astride the end; 18 and 19 are dropped
theorem test_write_straddling : bytesAfter
    (step (got active [0xA2, 0x04, 0x01, 0x02, 0x03, 0x04, 0x78, 0x57] 18 [])) [15, 16, 17, 18, 19] =
      some [0x00, 0x01, 0x02, 0x00, 0x00] := by decide
-- V-P10: a wrong CRC, NAK and no store
theorem test_write_bad_crc : sent (step (got20 active [0xA2, 0x04, 0x01, 0x02, 0x03, 0x04, 0x78, 0x56])) =
    some ([0x01], active) ∧
    bytesAfter (step (got20 active [0xA2, 0x04, 0x01, 0x02, 0x03, 0x04, 0x78, 0x56])) [16, 17, 18, 19] =
      some [0x10, 0x11, 0x12, 0x13] := by decide
-- V-P17
theorem test_hlta_active_halted : sent (step (got20 activeHalted [0x50, 0x00, 0x57, 0xCD])) = some ([], halt) := by decide

/-! ## "Anything else" -/

-- V-P18, V-P19, V-P13, V-P20: back to IDLE from ACTIVE
theorem test_else_active : [[0x50, 0x00], [0x50, 0x00, 0x57, 0xCC], [0xA2], [0x26]].map
    (fun bs => sent (step (got20 active bs))) =
    [some ([], idle), some ([], idle), some ([], idle), some ([], idle)] := by decide
-- V-P22
theorem test_else_active_empty : sent (step (got20 active [])) = some ([], active) := by decide
-- V-P33, V-P36
theorem test_else_ready : sent (step (got20 readyHalted [])) = some ([], halt) ∧
    sent (step (got20 ready [0x30, 0x00])) = some ([], idle) := by decide

/-! ## Frame codecs -/

-- V-CRC1, 2, 3, 6, 7, 18
theorem test_crc16 : [[], [0x00], [0x04], [0x12, 0x34], [0x50, 0x00], [0xA2, 0x04, 0x01, 0x02, 0x03, 0x04]].map crc16 =
    [(0x63, 0x63), (0xFE, 0x51), (0xDA, 0x17), (0x26, 0xCF), (0x57, 0xCD), (0x78, 0x57)] := by decide
-- V-CRC26, 27, 28
theorem test_crcOk : [[0xA2, 0x04, 0x01, 0x02, 0x03, 0x04, 0x78, 0x57], [0xA2, 0x04, 0x01, 0x02, 0x03, 0x04, 0x78, 0x56],
    [0x63, 0x63], [0x00, 0x00], [0x63], []].map crcOk = [true, false, true, false, false, false] := by decide
-- V-B1, V-B2, V-B5
theorem test_bcc : bcc 0x88 0x04 0xE3 0xEF = 0x80 ∧ bcc 0xA2 0xEF 0x20 0x80 = 0xED ∧ bcc 0x01 0x02 0x04 0x08 = 0x0F := by
  decide

/-! ## Encoder -/

/-- A slot string of the spec. -/
def slots (n w : Nat) : List Bool := (List.range n).map (fun i => w.testBit (n - 1 - i))

-- V-E2, both seeds; V-E3, seed 0
theorem test_slots_ack_nak : slotsOfFrame false [0x0A] = slots 22 0b1001100110010101010100 ∧
    slotsOfFrame true [0x0A] = slots 22 0b1001100110010101011000 ∧
    slotsOfFrame false [0x01] = slots 22 0b1010010101010101011000 := by decide
-- V-E1, seed 1
theorem test_slots_atqa : slotsOfFrame true [0x44, 0x00] = slots 40 0b1001011001010110011001010101010101011000 := by decide
-- R154, R155: bit 1 of 0x0A is a 1, and the second half of a bit is its complement
theorem test_tx_bit : nextWith (step { at_ (.tx .bit true) 20 [] with
    txSrc := .fb, txLen := 1, txK := 1, fb := fbFill State.reset.fb 0 [0x0A], modLine := true })
    (fun u => u.modLine == false && u.par == true && u.txK == 2 && u.ctl == .tx .bit false) = true := by decide

/-- At the last slot of the answer to `bs`, the command's assignment to PS still to be made. -/
def owing (ps : ProtState) (bs : List Byte) (p : ProtState) : State :=
  { got20 ps bs with
    ctl := .tx .eoc true, psAfter := some p, txSrc := .atqa, txLen := 2, txI := 1, txK := 7 }

-- V-P1: PS is READY when the answer has been sent, and not before
theorem test_ps_after_answer : nextWith (step (owing idle [0x26] ready)) (fun u => u.ps == ready && u.psAfter == none) = true ∧
    nextWith (step (got20 idle [0x26])) (fun u => u.ps == idle) = true := by decide

/-! ## Decoder -/

-- V-M20 to V-M25
theorem test_gap_classes : [160, 161, 224, 225, 288, 0].map (gapExtra params) = [0, 1, 1, 2, 2, 0] := by decide
-- V-M21: a MEDIUM gap from the start edge sets bit 0 and leaves position 3
theorem test_rx_edge : nextWith (step (hearing .frame [.edge 161]))
    (fun u => fbRead u 0 == 0x01 && u.hbitPos == 3 && u.bytePos == 0) = true := by decide
-- V-M1, V-M31 at their last step: HBITPOS 16 and 8, RXBYTES 1; V-M30: HBITPOS 7, RXBYTES 0, FDT_SEL 1
theorem test_rx_end : [16, 8, 7].map (fun h => nextWith (step { hearing .frame [.quiet] with hbitPos := h })
    (fun u => u.rxBytes == (if h = 7 then 0 else 1) && u.fdtSel == (h == 7))) = [true, true, true] := by decide
-- V-M43: the roll that would need FB[64]
theorem test_rx_overrun : (match step { hearing .frame [.edge 128] with hbitPos := 16, bytePos := 63 } with
    | .refused r => r == .rxOverrun
    | .next _ => false
    | .fault _ => false) = true := by decide

/-! ## Entry points -/

-- V-S1
theorem test_initialize : nextWith (step { at_ .done 0 [] with
    hostIn := [.initBlock 7 20], ps := active, rxBytes := 3, initDone := false }) (fun u => u.ps == idle && u.rxBytes == 0 && u.initDone && u.storageSize == 20) = true := by decide
-- V-S2
theorem test_no_carrier : nextWith (step { at_ .check 20 [] with carrierIn := [false], ps := active, retry := 5 })
    (fun u => u.ctl == .done && u.ps == active && u.retry == 5 && u.portLog == [.carrier false]) = true := by decide
-- V-S3
theorem test_not_initialized : (match step { at_ .check 20 [] with initDone := false } with
    | .refused r => r == .notInitialized
    | .next _ => false
    | .fault _ => false) = true := by decide

/-! ## The host's two questions, on one row -/

theorem test_withFetchWord_reqa :
    sent (step (State.reset.withFetchWord 8 0x26)) = some ([0x44, 0x00], ready) := by decide

/-! ## Witnesses: for every obligation with hypotheses, states and operands that meet them, clause by clause -/

theorem witness_DecodeOfEncodeIsTheInstruction :
    (Instr.write 0xFF (List.replicate 62 0xFF)).wellFormed = true ∧ (Instr.read 0x00).wellFormed = true := by decide

theorem witness_EveryCommandFrameBeginsWithItsEncoding :
    decode [0x93, 0x70, 0x00] = .ok .selectCl1 ∧ decode [0xA2, 0x04] = .ok (.write 0x04 []) := ⟨rfl, rfl⟩

theorem witness_StepRunsTheDecodedCommand :
    (got20 idle [0x26]).ctl = .dispatch ∧
    decodeFrame (got20 idle [0x26]).statics.hlta (received (got20 idle [0x26])) = .ok .reqa ∧
    (got20 idle []).ctl = .dispatch ∧
    decodeFrame (got20 idle []).statics.hlta (received (got20 idle [])) = .error .emptyFrame := by
  refine ⟨rfl, rfl, rfl, rfl⟩

theorem witness_DispatchIsThePseudocode :
    Built (got20 active (List.replicate 64 0xA2)) ∧ (got20 active (List.replicate 64 0xA2)).rxBytes = Config.fbCap ∧
    (got20 active (List.replicate 64 0xA2)).ctl = .dispatch := by decide

theorem witness_ReqaAnswersAtqaOnlyWhenIdleAndNotHalted :
    (Built (got20 idle [0x26]) ∧ (got20 idle [0x26]).ps = ⟨.idle, false⟩) ∧
    (Built (got20 halt [0x26]) ∧ (got20 halt [0x26]).ps ≠ ⟨.idle, false⟩) ∧
    (got20 halt [0x26]).ctl = .dispatch ∧ (got20 halt [0x26]).rxBytes ≤ Config.fbCap ∧
    matchPattern (got20 halt [0x26]) [0x26] = true := by decide

theorem witness_WupaAnswersAtqaOnlyWhenHalted :
    (Built (got20 halt [0x52]) ∧ (got20 halt [0x52]).ps = ⟨.idle, true⟩) ∧
    (Built (got20 idle [0x52]) ∧ (got20 idle [0x52]).ps ≠ ⟨.idle, true⟩) ∧
    (got20 idle [0x52]).ctl = .dispatch ∧ (got20 idle [0x52]).rxBytes ≤ Config.fbCap ∧
    matchPattern (got20 idle [0x52]) [0x52] = true := by decide

theorem witness_AnticollCl1SendsTheFirstUidFrame :
    (Built (got20 readyHalted [0x93, 0x20]) ∧ (got20 readyHalted [0x93, 0x20]).ps.phase = .ready) ∧
    (Built (got20 active [0x93, 0x20]) ∧ (got20 active [0x93, 0x20]).ps.phase ≠ .ready) ∧
    (got20 active [0x93, 0x20]).ctl = .dispatch ∧ (got20 active [0x93, 0x20]).rxBytes ≤ Config.fbCap ∧
    matchPattern (got20 active [0x93, 0x20]) [0x93, 0x20] = true := by decide

theorem witness_AnticollCl2SendsTheSecondUidFrame :
    (Built (got20 ready [0x95, 0x20]) ∧ (got20 ready [0x95, 0x20]).ps.phase = .ready) ∧
    (Built (got20 idle [0x95, 0x20]) ∧ (got20 idle [0x95, 0x20]).ps.phase ≠ .ready) ∧
    (got20 idle [0x95, 0x20]).ctl = .dispatch ∧ (got20 idle [0x95, 0x20]).rxBytes ≤ Config.fbCap ∧
    matchPattern (got20 idle [0x95, 0x20]) [0x95, 0x20] = true := by decide

theorem witness_SelectCl1SendsSakNotComplete :
    (Built (got20 ready [0x93, 0x70, 0x01]) ∧ (got20 ready [0x93, 0x70, 0x01]).ps.phase = .ready) ∧
    (Built (got20 halt [0x93, 0x70]) ∧ (got20 halt [0x93, 0x70]).ps.phase ≠ .ready) ∧
    (got20 halt [0x93, 0x70]).ctl = .dispatch ∧ (got20 halt [0x93, 0x70]).rxBytes ≤ Config.fbCap ∧
    matchPattern (got20 halt [0x93, 0x70]) [0x93, 0x70] = true := by decide

theorem witness_SelectCl2SendsSakCompleteAndActivates :
    (Built (got20 readyHalted [0x95, 0x70]) ∧ (got20 readyHalted [0x95, 0x70]).ps.phase = .ready) ∧
    (Built (got20 active [0x95, 0x70]) ∧ (got20 active [0x95, 0x70]).ps.phase ≠ .ready) ∧
    (got20 active [0x95, 0x70]).ctl = .dispatch ∧ (got20 active [0x95, 0x70]).rxBytes ≤ Config.fbCap ∧
    matchPattern (got20 active [0x95, 0x70]) [0x95, 0x70] = true := by decide

theorem witness_ReadSendsSixteenStorageBytesAndTheirCrc :
    (got20 active [0x30, 0xFF]).ps.phase = .active ∧ (got20 ready [0x30, 0xFF]).ps.phase ≠ .active ∧
    (got20 ready [0x30, 0xFF]).ctl = .dispatch ∧ 2 ≤ (got20 ready [0x30, 0xFF]).rxBytes ∧
    (got20 ready [0x30, 0xFF]).rxBytes ≤ Config.fbCap ∧ matchPattern (got20 ready [0x30, 0xFF]) [0x30] = true := by decide

/-- A state a WRITE of block 4 was received in, with a region that ends inside that block. -/
def writing (ps : ProtState) : State := got ps [0xA2, 0x04, 0x01, 0x02, 0x03, 0x04, 0x78, 0x57] 18 (counting 18)

theorem witness_WriteStoresAndSendsAckOrSendsNak :
    Memory.wf (writing active).storage = true ∧ (writing active).ps.phase = .active ∧
    (4 * (0x04 : Byte).toNat + 1 < (writing active).storageSize ∧
      ¬ 4 * (0x04 : Byte).toNat + 2 < (writing active).storageSize) ∧
    ([0x01, 0x02, 0x03, 0x04, 0x78] : List Byte).length ≠ 6 ∧
    crc16 [0xA2, 0x04, 0x01, 0x02, 0x03, 0x04] ≠ (0x78, 0x56) ∧
    Memory.wf (writing idle).storage = true ∧ (writing idle).ps.phase ≠ .active ∧
    (writing idle).ctl = .dispatch ∧ 2 ≤ (writing idle).rxBytes ∧ (writing idle).rxBytes ≤ Config.fbCap ∧
    matchPattern (writing idle) [0xA2] = true := by decide

theorem witness_HltaHaltsSilently :
    (Built (got20 activeHalted [0x50, 0x00, 0x57, 0xCD]) ∧
      (got20 activeHalted [0x50, 0x00, 0x57, 0xCD]).ps.phase = .active) ∧
    (Built (got20 ready [0x50, 0x00, 0x57, 0xCD]) ∧ (got20 ready [0x50, 0x00, 0x57, 0xCD]).ps.phase ≠ .active) ∧
    (got20 ready [0x50, 0x00, 0x57, 0xCD]).ctl = .dispatch ∧
    (got20 ready [0x50, 0x00, 0x57, 0xCD]).rxBytes ≤ Config.fbCap ∧
    matchPattern (got20 ready [0x50, 0x00, 0x57, 0xCD]) [0x50, 0x00, 0x57, 0xCD] = true := by decide

theorem witness_AnythingElseFallsBackByPhase :
    [got20 halt [0x26], got20 idle [], got20 ready [0x30, 0x00], got20 readyHalted [], got20 active [0xA2],
      got20 active []].all (fun s => decide (Built s) && decide (s.rxBytes ≤ Config.fbCap) && s.ctl == .dispatch &&
        selectsNoRow s) = true := by decide

theorem witness_StaleFrameBytesCannotInfluenceADispatch :
    (got20 active [0x30, 0x00]).ctl = .dispatch ∧
    SameButFb (got20 active [0x30, 0x00])
      { got20 active [0x30, 0x00] with fb := (got20 active [0x30, 0x00]).fb.setIfInBounds 2 0xEE } ∧
    (∀ i < (got20 active [0x30, 0x00]).rxBytes,
      fbRead { got20 active [0x30, 0x00] with fb := (got20 active [0x30, 0x00]).fb.setIfInBounds 2 0xEE } i =
        fbRead (got20 active [0x30, 0x00]) i) := by
  refine ⟨rfl, rfl, by decide⟩

theorem witness_ByteWriteIsReadBackOrDropped :
    Memory.wf (at_ .done 20 (counting 20)).storage = true ∧ 19 < (at_ .done 20 (counting 20)).storageSize ∧
    (at_ .done 20 (counting 20)).storageSize ≤ 20 ∧ ¬ (1 = (at_ .done 20 (counting 20)).storageRef ∧ 19 = 19) := by
  decide

theorem witness_WriteBlockChecksEachByte :
    Memory.wf (at_ .done 18 (counting 18)).storage = true ∧ 4 * 4 + 1 < (at_ .done 18 (counting 18)).storageSize ∧
    ¬ ((at_ .done 18 (counting 18)).storageRef = 0 ∧ 4 * 4 ≤ 18 ∧ 18 < 4 * 4 + 4 ∧
      18 < (at_ .done 18 (counting 18)).storageSize) := by decide

theorem witness_CanonicalMemoriesThatReadAlikeAreEqual :
    Memory.wf (counting 3) = true ∧ Memory.wf [(1, 0x01), (2, 0x02)] = true ∧
    ∀ off, Memory.read (counting 3) off = Memory.read [(1, 0x01), (2, 0x02)] off := ⟨rfl, rfl, fun _ => rfl⟩

theorem witness_GapClassesAreCutAtTheThresholds :
    160 ≤ 5 * params.tBit / 4 ∧ (5 * params.tBit / 4 < 161 ∧ 161 ≤ 7 * params.tBit / 4) ∧
    (5 * params.tBit / 4 < 224 ∧ 224 ≤ 7 * params.tBit / 4) ∧ 7 * params.tBit / 4 < 225 := by decide

theorem witness_MaskTableHoldsTheDataBits : 7 < 8 ∧ 17 < 18 ∧ (17 % 2 = 0 ∨ 16 ≤ 17) ∧ 0 < 18 ∧ (0 % 2 = 0 ∨ 16 ≤ 0) := by
  decide

theorem witness_DecoderDrainsThenWaitsForQuiet :
    (hearing .drain []).ctl = .rx .drain ∧
    ((hearing .quiet [.edge 128]).ctl = .rx .quiet ∧
      (btpWaitEdge (hearing .quiet [.edge 128]).params.tBit (hearing .quiet [.edge 128])).rxR = .edge 128) ∧
    ((hearing .quiet [.edge 129]).ctl = .rx .quiet ∧
      (btpWaitEdge (hearing .quiet [.edge 129]).params.tBit (hearing .quiet [.edge 129])).rxR = .quiet) := by decide

theorem witness_StartEdgeOrTimeoutEndsTheWait :
    ((hearing .start [.edge 128]).ctl = .rx .start ∧
      (btpWaitEdge (hearing .start [.edge 128]).params.tBit (hearing .start [.edge 128])).rxR = .edge 128) ∧
    ((hearing .start [.quiet]).ctl = .rx .start ∧ 2 ≤ (hearing .start [.quiet]).rxC ∧
      (btpWaitEdge (hearing .start [.quiet]).params.tBit (hearing .start [.quiet])).rxR = .quiet) ∧
    (({ hearing .start [] with rxC := 1, quietAfter := true } : State).ctl = .rx .start ∧
      ({ hearing .start [] with rxC := 1, quietAfter := true } : State).rxC = 1 ∧
      (btpWaitEdge 128 { hearing .start [] with rxC := 1, quietAfter := true }).rxR = .quiet) := by decide

/-- At the last position an edge of the shortest gap can still leave: byte 63, slot 15. -/
def lastPosition : State := { hearing .frame [] with bytePos := 63, hbitPos := 15 }

theorem witness_EdgeAdvancesByItsGapAndSetsItsSlot :
    lastPosition.hbitPos ≤ 17 ∧
    18 * lastPosition.bytePos + lastPosition.hbitPos + gapExtra lastPosition.params 160 + 2 < 18 * Config.fbCap := by
  decide

theorem witness_OverrunIsRefusedExactlyAtTheCapacity :
    lastPosition.hbitPos ≤ 17 ∧ lastPosition.bytePos < Config.fbCap ∧
    18 * Config.fbCap ≤ 18 * lastPosition.bytePos + lastPosition.hbitPos + gapExtra lastPosition.params 161 + 2 := by
  decide

theorem witness_QuietEndsTheFrame :
    ((hearing .frame [.edge 288]).ctl = .rx .frame ∧
      (btpWaitEdge (9 * (hearing .frame [.edge 288]).params.tBit / 4) (hearing .frame [.edge 288])).rxR = .edge 288) ∧
    ((hearing .frame [.edge 289]).ctl = .rx .frame ∧
      (btpWaitEdge (9 * (hearing .frame [.edge 289]).params.tBit / 4) (hearing .frame [.edge 289])).rxR = .quiet) := by decide

theorem witness_PortAnswersAreListedThenSilentOrFree :
    ((hearing .quiet [.edge 128]).edgeIn = .edge 128 :: [] ∧ 128 ≤ 128) ∧
    ((hearing .quiet [.edge 129]).edgeIn = .edge 129 :: [] ∧ 128 < 129) ∧
    (hearing .quiet [.quiet]).edgeIn = .quiet :: [] ∧
    (({ hearing .quiet [] with quietAfter := true } : State).edgeIn = [] ∧
      ({ hearing .quiet [] with quietAfter := true } : State).quietAfter = true) ∧
    ((hearing .quiet []).edgeIn = [] ∧ (hearing .quiet []).quietAfter = false) ∧
    ({ at_ .check 20 [] with carrierIn := [true] } : State).carrierIn = true :: [] ∧ (at_ .check 20 []).carrierIn = [] := by
  decide

theorem witness_DecoderWritesOnlyItsRegisters :
    [hearing .drain [], hearing .quiet [.quiet], hearing .start [.edge 5], hearing .frame [.edge 161],
      hearing .frame [.quiet]].all (fun s => nextWith (step s) (fun u => u.portLog != s.portLog)) = true := by decide

theorem witness_MillerFramesDecodeToTheirBits :
    ([true] : List Bool) ≠ [] ∧ (List.replicate 574 false).length ≤ 9 * 63 + 7 ∧
    8 ≤ params.tBit ∧ params.tBit % 2 = 0 ∧ 128 ≤ params.tBit ∧
    (hearing .start (gapTrace 128 128 (readerGaps [true]) ++ [])).ctl = .rx .start ∧
    (hearing .start (gapTrace 128 128 (readerGaps [true]) ++ [])).edgeIn =
      gapTrace params.tBit 128 (readerGaps [true]) ++ [] := by decide

theorem witness_StandardFramesDecodeToTheirBytes :
    ([(0x93, true), (0x20, false)] : List (Byte × Bool)) ≠ [] ∧
    (List.replicate 63 ((0x00, true) : Byte × Bool)).length ≤ 63 ∧
    8 ≤ params.tBit ∧ params.tBit % 2 = 0 ∧ 0 ≤ params.tBit ∧
    (hearing .start (gapTrace 128 0 (readerGaps (characterBits [(0x93, true), (0x20, false)])) ++ [.quiet])).ctl =
      .rx .start ∧
    (hearing .start (gapTrace 128 0 (readerGaps (characterBits [(0x93, true), (0x20, false)])) ++ [.quiet])).edgeIn =
      gapTrace params.tBit 0 (readerGaps (characterBits [(0x93, true), (0x20, false)])) ++ [.quiet] := by decide

theorem witness_ShortFramesDecodeToOneByte :
    8 ≤ params.tBit ∧ params.tBit % 2 = 0 ∧ 128 ≤ params.tBit ∧
    (hearing .start (gapTrace 128 128 (readerGaps (shortBits 0x26)) ++ [])).ctl = .rx .start ∧
    (hearing .start (gapTrace 128 128 (readerGaps (shortBits 0x26)) ++ [])).edgeIn =
      gapTrace params.tBit 128 (readerGaps (shortBits 0x26)) ++ [] := by decide

-- V-M1: the gaps of a short frame 26
theorem test_reader_gaps_reqa : readerGaps (shortBits 0x26) = [2, 3, 2, 3, 3, 3] := by decide

-- V-RT2: the gaps of ACK under the adapter
theorem test_adapter_gaps_ack : adapterGaps (slotsOfFrame false [0x0A]) = [2, 3, 4, 3, 2, 2, 2, 2] := by decide

theorem witness_EncoderDrivesTheRecordedSlots :
    1 ≤ 1 ∧ 64 ≤ (srcBytes (at_ .dispatch 20 []) .fb).length ∧ 2 ≤ (srcBytes (at_ .dispatch 20 []) .atqa).length := by
  decide

theorem witness_EncoderWritesOnlyItsRegisters :
    [owing idle [0x26] ready, { owing idle [0x26] ready with ctl := .tx .parity true }].map
      (fun s => nextWith (step s) (fun u => u.ps == s.ps && u.psAfter == s.psAfter)) = [false, true] := by
  decide

theorem witness_EncodedFramesDecodeToTheirBytes :
    ([0x0A] : List Byte) ≠ [] ∧ (List.replicate 63 (0x0A : Byte)).length ≤ 63 ∧ 8 ≤ params.tBit ∧ params.tBit % 2 = 0 ∧
    128 ≤ params.tBit ∧
    (hearing .start (gapTrace 128 128 (adapterGaps (slotsOfFrame true [0x0A])) ++ [])).ctl = .rx .start ∧
    (hearing .start (gapTrace 128 128 (adapterGaps (slotsOfFrame true [0x0A])) ++ [])).edgeIn =
      gapTrace params.tBit 128 (adapterGaps (slotsOfFrame true [0x0A])) ++ [] := by decide

/-- At rest in ACTIVE, the host about to do `h`. -/
def hosting (h : HostCall) : State := { at_ .done 20 (counting 20) with hostIn := [h], ps := active }

/-- The invariant of the small states, but for what the control position asks. -/
theorem inv_of_quiet (s : State) (hc : s.ctl = .done ∨ s.ctl = .dispatch) (hp : s.params.InRange)
    (hs : Memory.wf s.storage = true) (hu : s.unbound = []) (hb : Built s) (hi : s.initDone = true)
    (hr : s.rxBytes ≤ 64 ∧ s.hbitPos = 0 ∧ s.bytePos = 0 ∧ s.rxT = 0 ∧ s.rxE = 0 ∧ s.rxC = 0 ∧ s.retry ≤ 8)
    (hm : s.modLine = false) (ha : s.psAfter = none) : Inv s := by
  obtain ⟨h1, h2, h3, h4, h5, h6, h7⟩ := hr
  have hw : ∀ p, s.ctl ≠ .rx p := by rcases hc with h | h <;> simp [h]
  have ht : ∀ a b, s.ctl ≠ .tx a b := by rcases hc with h | h <;> simp [h]
  have hph : s.ctl.phase ≠ .sTx := by rcases hc with h | h <;> simp [h, Ctl.phase]
  have hd : s.ctl.decoding = false := by rcases hc with h | h <;> simp [h, Ctl.decoding]
  constructor
  · exact hp
  · exact hs
  · rw [hu]; rfl
  · rw [hu]; rfl
  · exact fun _ => hb
  · exact fun _ => hi
  · exact h1
  · omega
  · rw [h3]; decide
  · omega
  · omega
  · omega
  · exact fun h => absurd h (hw _)
  · exact h7
  · rw [hd]; simp
  · exact fun _ => hm
  · exact fun h => absurd h hph
  · exact fun h => absurd h hph
  · exact fun _ => ha
  · simp [ha]

theorem inv_hosting (h : HostCall) : Inv (hosting h) :=
  inv_of_quiet _ (.inl rfl) (show params.InRange by decide) rfl rfl rfl rfl
    ⟨Nat.zero_le _, rfl, rfl, rfl, rfl, rfl, Nat.le_refl 8⟩ rfl rfl

theorem inv_writing (ps : ProtState) : Inv (writing ps) :=
  inv_of_quiet _ (.inr rfl) (show params.InRange by decide) rfl rfl rfl rfl
    ⟨show 8 ≤ 64 by decide, rfl, rfl, rfl, rfl, rfl, Nat.le_refl 8⟩ rfl rfl

theorem witness_InitializeSetsTheResetValues :
    (hosting (.initBlock 7 5)).ctl = .done ∧ (hosting (.initBlock 7 5)).hostIn = .initBlock 7 5 :: [] ∧
    Inv (hosting (.initBlock 7 5)) := ⟨rfl, rfl, inv_hosting _⟩

theorem witness_ServiceReaderTestsTheCarrierAtEntry :
    ((at_ .check 20 []).ctl = .check ∧ (at_ .check 20 []).initDone = true) ∧
    (btpCarrier { at_ .check 20 [] with carrierIn := [true] }).1 = true ∧
    (btpCarrier { at_ .check 20 [] with carrierIn := [false] }).1 = false := by decide

theorem witness_HostActionsStoreBytesAndCallTheService :
    (Inv (hosting (.storeByte 3 9 0x55)) ∧ (hosting (.storeByte 3 9 0x55)).ctl = .done ∧
      (hosting (.storeByte 3 9 0x55)).hostIn = .storeByte 3 9 0x55 :: []) ∧
    (Inv (hosting .serviceReader) ∧ (hosting .serviceReader).ctl = .done ∧
      (hosting .serviceReader).hostIn = .serviceReader :: []) ∧
    (Inv (at_ .done 20 []) ∧ (at_ .done 20 []).ctl = .done ∧ (at_ .done 20 []).hostIn = []) :=
  ⟨⟨inv_hosting _, rfl, rfl⟩, ⟨inv_hosting _, rfl, rfl⟩,
    inv_of_quiet _ (.inl rfl) (show params.InRange by decide) rfl rfl rfl rfl
      ⟨Nat.zero_le _, rfl, rfl, rfl, rfl, rfl, Nat.le_refl 8⟩ rfl rfl, rfl, rfl⟩

theorem witness_ServiceReaderBeforeInitializeIsRefused :
    ({ at_ .check 20 [] with initDone := false } : State).ctl = .check ∧
    ({ at_ .check 20 [] with initDone := false } : State).initDone = false := by decide

theorem witness_RetryCountsEmptyFramesOnly : (at_ .count 20 []).ctl = .count := rfl

theorem witness_SilentCallReturnsAfterEightTimeouts :
    ({ at_ .check 20 [] with carrierIn := [true], quietAfter := true, ps := ready } : State).ctl = .check ∧
    ({ at_ .check 20 [] with carrierIn := [true], quietAfter := true, ps := ready } : State).initDone = true ∧
    1 ≤ ({ at_ .check 20 [] with carrierIn := [true], quietAfter := true, ps := ready } : State).params.rxTimeoutBits ∧
    ({ at_ .check 20 [] with carrierIn := [true], quietAfter := true, ps := ready } : State).carrierIn = true :: [] ∧
    ({ at_ .check 20 [] with carrierIn := [true], quietAfter := true, ps := ready } : State).edgeIn = [] ∧
    ({ at_ .check 20 [] with carrierIn := [true], quietAfter := true, ps := ready } : State).quietAfter = true := by
  decide

/-- The next state of a call, or the same state where there is none. -/
def onward (s : State) : State :=
  match step s with
  | .next u => if s.ctl = .done then s else u
  | .fault _ => s
  | .refused _ => s

/-- A call in its last cycle: one edge is discarded, then silence, then no frame. -/
def lastCycle : Nat → State
  | 0 => { hearing .quiet [.edge 5] with quietAfter := true, params := { params with rxTimeoutBits := 1 }, retry := 1 }
  | k + 1 => onward (lastCycle k)

theorem lastCycle_rests (k : Nat) : (lastCycle (k + 5)).ctl = .done := by
  induction k with
  | zero => rfl
  | succ k ih =>
    show (onward (lastCycle (k + 5))).ctl = .done
    unfold onward
    split
    · rw [if_pos ih]; exact ih
    · exact ih
    · exact ih

theorem witness_ServiceCallsReturnUnderTheEnvironmentAssumptions :
    IsCall lastCycle ∧ FiniteEdgeRuns lastCycle ∧ FinitelyManyFrames lastCycle ∧ EdgeAnswered lastCycle 0 := by
  refine ⟨fun k hk => ?_, fun k => ⟨k + 5, Nat.le_add_right k 5, fun ⟨p, t, _, hc, _⟩ => ?_⟩, ⟨5, fun j hj hc => ?_⟩,
    .quiet, 5, by simp, rfl, rfl⟩
  · match k with
    | 0 | 1 | 2 | 3 | 4 => rfl
    | k + 5 => exact absurd (lastCycle_rests k) hk
  · rw [lastCycle_rests] at hc; exact nomatch hc
  · obtain ⟨d, rfl⟩ := Nat.exists_eq_add_of_le' hj
    rw [lastCycle_rests] at hc; exact nomatch hc

theorem witness_ControlPhasesFollowTheServiceSequence :
    nextWith (step (got20 active [0x30, 0x00])) (fun u => u.ctl == .tx .soc false) = true ∧
    nextWith (step { got20 halt [] with retry := 0 }) (fun u => u.ctl == .done) = true ∧
    nextWith (step (at_ (.tx .eoc true) 20 [])) (fun u => u.ctl == .rx .drain) = true := by decide

theorem witness_EveryStepKeepsTheInvariant : Inv (writing active) ∧ ∃ u, step (writing active) = .next u :=
  ⟨inv_writing _, (stepDispatch_cases (writing active)).imp fun _ h => h.1⟩

theorem inv_owing (ps : ProtState) (bs : List Byte) (p : ProtState) (ho : Owed (owing ps bs p) p) :
    Inv (owing ps bs p) := by
  refine ⟨show params.InRange by decide, rfl, rfl, rfl, fun _ => rfl, fun _ => rfl, ?_, Nat.zero_le _,
    show 0 < 64 by decide, Nat.zero_le _, Nat.zero_le _, Nat.zero_le _, (fun h => nomatch h), Nat.le_refl 8,
    (fun h => nomatch h), (fun h => absurd rfl h), fun _ => ?_, fun _ _ => ⟨show 1 < 2 by decide, Nat.le_refl 7⟩,
    fun h => absurd rfl h, fun q h => ?_⟩
  · exact Nat.min_le_right _ _
  · exact ⟨show 1 ≤ 2 by decide, show 2 ≤ 18 by decide, show 2 ≤ [(0x44 : Byte), 0x00].length by decide⟩
  · cases h; exact ho

theorem inv_got20 (ps : ProtState) (bs : List Byte) : Inv (got20 ps bs) :=
  inv_of_quiet _ (.inr rfl) (show params.InRange by decide) rfl rfl rfl rfl
    ⟨Nat.min_le_right _ _, rfl, rfl, rfl, rfl, rfl, Nat.le_refl 8⟩ rfl rfl

theorem witness_ProtocolStateMovesOnlyAlongTheTable :
    (Inv (owing idle [0x26] ready) ∧ Inv (owing halt [0x52] readyHalted) ∧
      Inv (owing readyHalted [0x95, 0x70] activeHalted) ∧ Inv (got20 readyHalted []) ∧ Inv (got20 active [0x26]) ∧
      Inv (got20 active [0x50, 0x00, 0x57, 0xCD]) ∧ Inv (hosting (.initBlock 0 20))) ∧
    [owing idle [0x26] ready, owing halt [0x52] readyHalted, owing readyHalted [0x95, 0x70] activeHalted,
      got20 readyHalted [], got20 active [0x26], got20 active [0x50, 0x00, 0x57, 0xCD], hosting (.initBlock 0 20)].all
      (fun s => nextWith (step s) (fun u => u.ps != s.ps)) = true :=
  ⟨⟨inv_owing _ _ _ (.inl ⟨rfl, rfl, rfl⟩), inv_owing _ _ _ (.inr (.inl ⟨rfl, rfl, rfl⟩)),
    inv_owing _ _ _ (.inr (.inr ⟨rfl, rfl, rfl⟩)), inv_got20 _ _, inv_got20 _ _, inv_got20 _ _,
    inv_hosting _⟩, by decide⟩

theorem witness_HaltedFlagIsSetByHltaAndClearedByInitialize :
    (Inv (got20 active [0x50, 0x00, 0x57, 0xCD]) ∧
      nextWith (step (got20 active [0x50, 0x00, 0x57, 0xCD])) (fun u => u.ps.halted) = true) ∧
    (Inv { hosting (.initBlock 0 20) with ps := halt } ∧
      nextWith (step { hosting (.initBlock 0 20) with ps := halt }) (fun u => !u.ps.halted) = true) :=
  ⟨⟨inv_got20 _ _, by decide⟩,
    inv_of_quiet _ (.inl rfl) (show params.InRange by decide) rfl rfl rfl rfl
      ⟨Nat.zero_le _, rfl, rfl, rfl, rfl, rfl, Nat.le_refl 8⟩ rfl rfl, by decide⟩

theorem witness_StorageChangesOnlyByAcceptedWriteOrHost :
    (Inv (writing active) ∧ nextWith (step (writing active)) (fun u => byteAt u 0 17 != byteAt (writing active) 0 17) = true) ∧
    (Inv (hosting (.storeByte 3 9 0x55)) ∧ nextWith (step (hosting (.storeByte 3 9 0x55)))
      (fun u => byteAt u 3 9 != byteAt (hosting (.storeByte 3 9 0x55)) 3 9) = true) :=
  ⟨⟨inv_writing _, by decide⟩, inv_hosting _, by decide⟩

theorem witness_StaticFramesAndParametersAreReadOnly :
    nextWith (step { hosting (.initBlock 0 20) with statics := ⟨[], [], [], [], [], []⟩ })
      (fun u => u.statics != ⟨[], [], [], [], [], []⟩) = true := by decide

theorem witness_AtMostOneFrameIsSentPerDispatch :
    nextWith (step (writing active)) (fun u => u.txLog != (writing active).txLog) = true ∧
    nextWith (step { hosting (.initBlock 0 20) with txLog := [⟨false, [0x0A], []⟩] })
      (fun u => u.txLog != [⟨false, [0x0A], []⟩]) = true := by decide

/-- At the overrun of V-M43, one step before. -/
def overrunning : State := { hearing .frame [.edge 128] with bytePos := 63, hbitPos := 16 }

theorem witness_OnlyTheListedRefusalsOccur : Inv overrunning ∧ step overrunning = .refused .rxOverrun := by
  refine ⟨⟨by decide, rfl, rfl, rfl, fun _ => rfl, fun _ => rfl, by decide, by decide, by decide, by decide, by decide,
    by decide, by decide, by decide, by decide, fun _ => rfl, by decide, fun h => absurd h (by decide), fun _ => rfl,
    fun p h => nomatch (show (none : Option ProtState) = some p from h)⟩, rfl⟩

end Sys2Proof.Tests
end

section
/-! SUPPORT. Proofs, the part all of them share: what each kind of step can do, said once (spec 10_state.md R29). A dispatch is
`stepDispatch_cases` of Laws/Step; here stand the end of a cycle, the host's actions, the decoder and the encoder. -/

namespace Sys2Proof.Machine

/-! ## One step, by the control phase -/

/-- The control phase selects what a step does (R29). -/
theorem step_cases {s u : State} (e : step s = .next u) :
    (s.ctl = .done ∧ u = stepDone s) ∨ (s.ctl = .check ∧ stepCheck s = .next u) ∨
    (∃ p, s.ctl = .rx p ∧ stepRx p s = .next u) ∨ (s.ctl = .count ∧ u = stepCount s) ∨
    (s.ctl = .dispatch ∧ stepDispatch s = .next u) ∨
    (∃ sym second, s.ctl = .tx sym second ∧ u = stepTx sym second s) := by
  unfold step at e
  split at e
  · cases e; exact .inl ⟨‹_›, rfl⟩
  · exact .inr (.inl ⟨‹_›, e⟩)
  · exact .inr (.inr (.inl ⟨_, ‹_›, e⟩))
  · cases e; exact .inr (.inr (.inr (.inl ⟨‹_›, rfl⟩)))
  · exact .inr (.inr (.inr (.inr (.inl ⟨‹_›, e⟩))))
  · cases e; exact .inr (.inr (.inr (.inr (.inr ⟨_, _, ‹_›, rfl⟩))))

/-- No position inside the decoder or right after it belongs to a transmission. -/
theorem Ctl.phase_ne_sTx_of_decoding {c : Ctl} (h : c.decoding = true) : c.phase ≠ .sTx := by
  cases c <;> simp_all [Ctl.phase, Ctl.decoding]

/-- A transmission is inside a call. -/
theorem Ctl.inCall_of_phase_eq_sTx {c : Ctl} (h : c.phase = .sTx) : c.inCall = true := by
  cases c <;> simp_all [Ctl.phase, Ctl.inCall]

/-! ## The end of a cycle -/

/-- The control phase after a cycle of the service loop: the next decode while RETRY is not 0, else the end of the call
(R212). -/
def CycleOver (u : State) : Prop := (u.ctl = .rx .drain ∧ u.retry ≠ 0) ∨ (u.ctl = .done ∧ u.retry = 0)

theorem cycleOver_endCycle (s : State) : CycleOver (endCycle s) := by
  by_cases h : s.retry = 0
  · exact .inr ⟨by simp [h], h⟩
  · exact .inl ⟨by simp [h], h⟩

theorem cycleOver_anythingElse (s : State) : CycleOver (anythingElse s) := by
  rw [anythingElse_eq]
  exact cycleOver_endCycle _

theorem cycleOver_finishCommand (s : State) : CycleOver (finishCommand s) := cycleOver_endCycle _

/-! ## Dispatch -/

/-- A dispatched command either begins a transmission or ends the cycle. -/
theorem Effect.transmits_or_cycleOver {i : Instr} {s u : State} (e : Effect i s u) :
    u.ctl = .tx .soc false ∨ CycleOver u := by
  cases e with
  | other => exact .inr (cycleOver_anythingElse s)
  | hlta => exact .inr (cycleOver_endCycle _)
  | _ => exact .inl rfl

theorem stepDispatch_transmits_or_cycleOver {s u : State} (h : stepDispatch s = .next u) :
    u.ctl = .tx .soc false ∨ CycleOver u := by
  obtain ⟨v, hv, hc⟩ := stepDispatch_cases s
  obtain rfl : v = u := by simpa [hv] using h
  rcases hc with rfl | ⟨i, _, _, e⟩
  · exact .inr (cycleOver_anythingElse s)
  · exact e.transmits_or_cycleOver

/-! ## The host and the entry -/

/-- Binding a region writes what belongs to storage only. -/
theorem bindRegion_frame (ref : Nat) (s : State) :
    ∃ r m q, bindRegion ref s = { s with storageRef := r, storage := m, unbound := q } := by
  unfold bindRegion
  split
  · exact ⟨_, _, _, rfl⟩
  · exact ⟨_, _, _, rfl⟩

@[simp] theorem bindRegion_params (ref : Nat) (s : State) : (bindRegion ref s).params = s.params := by
  obtain ⟨_, _, _, h⟩ := bindRegion_frame ref s
  rw [h]

@[simp] theorem initializeBlock_ctl (ref size : Nat) (s : State) : (initializeBlock ref size s).ctl = s.ctl := by
  obtain ⟨_, _, _, h⟩ := bindRegion_frame ref s
  rw [initializeBlock, h]

/-- A byte stored by the host writes what belongs to storage only. -/
theorem hostStoreByte_frame (ref off : Nat) (v : Byte) (s : State) :
    ∃ m q, hostStoreByte ref off v s = { s with storage := m, unbound := q } := by
  unfold hostStoreByte
  split
  · exact ⟨_, _, rfl⟩
  · exact ⟨_, _, rfl⟩

theorem hostAct_ctl (a : HostCall) (s : State) : (hostAct a s).ctl = s.ctl ∨ (hostAct a s).ctl = .check := by
  cases a with
  | initBlock ref size => exact .inl (initializeBlock_ctl ref size s)
  | serviceReader => exact .inr rfl
  | storeByte ref off v =>
    obtain ⟨_, _, h⟩ := hostStoreByte_frame ref off v s
    exact .inl (by rw [hostAct, h])

/-- The host writes PS by the set-up call alone (R261). -/
theorem hostAct_ps (a : HostCall) (s : State) :
    (hostAct a s).ps = s.ps ∨ (∃ ref size, a = .initBlock ref size) ∧ (hostAct a s).ps = ⟨.idle, false⟩ := by
  cases a with
  | initBlock ref size => exact .inr ⟨⟨ref, size, rfl⟩, rfl⟩
  | serviceReader => exact .inl rfl
  | storeByte ref off v =>
    obtain ⟨_, _, h⟩ := hostStoreByte_frame ref off v s
    exact .inl (by rw [hostAct, h])

/-- At rest the host acts: by its list, or with none listed by `serviceReader`. -/
theorem stepDone_cases (s : State) :
    (∃ a q, s.hostIn = a :: q ∧ stepDone s = hostAct a { s with hostIn := q }) ∨
    (s.hostIn = [] ∧ stepDone s = s.setCtl .check) := by
  unfold stepDone
  cases h : s.hostIn with
  | nil => exact .inr ⟨rfl, rfl⟩
  | cons a q => exact .inl ⟨a, q, rfl, rfl⟩

theorem stepDone_ctl {s : State} (hc : s.ctl = .done) : (stepDone s).ctl = .done ∨ (stepDone s).ctl = .check := by
  rcases stepDone_cases s with ⟨a, q, _, e⟩ | ⟨_, e⟩
  · rw [e, ← hc]
    exact hostAct_ctl a { s with hostIn := q }
  · exact .inr (by rw [e]; rfl)

/-- The entry of `serviceReader` goes on to the first decode or back to rest. -/
theorem stepCheck_cases {s u : State} (h : stepCheck s = .next u) :
    s.initDone = true ∧ ∃ q n l,
      (u = { s with carrierIn := q, freeCount := n, portLog := l, retry := Config.retryInit, ctl := .rx .drain } ∨
       u = { s with carrierIn := q, freeCount := n, portLog := l, ctl := .done }) := by
  unfold stepCheck at h
  split at h
  · rename_i hi
    obtain ⟨q, n, l, hb⟩ := btpCarrier_frame s
    cases h
    refine ⟨hi, q, n, l, ?_⟩
    rw [hb, afterCarrier]
    split
    · exact .inl rfl
    · exact .inr rfl
  · cases h

/-! ## The decoder -/

@[simp] theorem btpWaitEdge_params (d : Nat) (s : State) : (btpWaitEdge d s).params = s.params := by
  obtain ⟨_, _, _, _, h⟩ := btpWaitEdge_frame d s
  rw [h]

@[simp] theorem btpWaitEdge_ctl (d : Nat) (s : State) : (btpWaitEdge d s).ctl = s.ctl := by
  obtain ⟨_, _, _, _, h⟩ := btpWaitEdge_frame d s
  rw [h]

@[simp] theorem btpWaitEdge_ps (d : Nat) (s : State) : (btpWaitEdge d s).ps = s.ps := by
  obtain ⟨_, _, _, _, h⟩ := btpWaitEdge_frame d s
  rw [h]

theorem rxEdge_ctl_ps {t : Nat} {s u : State} (h : rxEdge t s = .next u) : u.ctl = s.ctl ∧ u.ps = s.ps := by
  rcases rxEdge_frame t s with ⟨f, b, p, e⟩ | e
  · cases e.symm.trans h
    exact ⟨rfl, rfl⟩
  · cases e.symm.trans h

/-- The states in which a step of `rxMiller` at `s` can end, by the point at which it stands (R137). -/
inductive RxEffect (s : State) : RxPoint → State → Prop
  | drained : RxEffect s .drain ((btpDrain s).setCtl (.rx .quiet))
  | discarded : RxEffect s .quiet (btpWaitEdge s.params.tBit s)
  | quiet : RxEffect s .quiet
      { btpWaitEdge s.params.tBit s with rxC := (btpWaitEdge s.params.tBit s).params.rxTimeoutBits, ctl := .rx .start }
  | startEdge : RxEffect s .start (rxStartEdge (btpWaitEdge s.params.tBit s))
  | startQuiet : RxEffect s .start (rxStartQuiet (btpWaitEdge s.params.tBit s))
  | edge (t : Nat) (u : State) : (btpWaitEdge (th3 s.params) s).rxR = .edge t →
      rxEdge t (btpWaitEdge (th3 s.params) s) = .next u → RxEffect s .frame u
  | ended : RxEffect s .frame (rxEndFrame (btpWaitEdge (th3 s.params) s))

theorem stepRx_effect {p : RxPoint} {s u : State} (h : stepRx p s = .next u) : RxEffect s p u := by
  cases p with
  | drain => cases h; exact .drained
  | quiet =>
    cases h
    unfold rxAfterQuiet
    split
    · exact .discarded
    · exact .quiet
  | start =>
    cases h
    unfold rxAfterStart
    split
    · exact .startEdge
    · exact .startQuiet
  | frame =>
    simp only [stepRx, rxAfterFrame] at h
    split at h
    · rename_i t ht
      exact .edge t u ht h
    · cases h; exact .ended

/-- A quiet bit period before the start edge counts down, to "no frame" at 0 (R124). -/
theorem rxStartQuiet_cases (s : State) :
    (s.rxC - 1 = 0 ∧ rxStartQuiet s = { s with rxC := s.rxC - 1, rxBytes := 0, ctl := .count }) ∨
    (s.rxC - 1 ≠ 0 ∧ rxStartQuiet s = { s with rxC := s.rxC - 1 }) := by
  unfold rxStartQuiet
  split
  · exact .inl ⟨‹_›, rfl⟩
  · exact .inr ⟨‹_›, rfl⟩

/-- The decoder goes on decoding or, but for the drain, returns. -/
theorem RxEffect.ctl {p : RxPoint} {s u : State} (e : RxEffect s p u) (hc : s.ctl = .rx p) :
    (∃ q, u.ctl = .rx q) ∨ (p ≠ .drain ∧ u.ctl = .count) := by
  cases e with
  | drained => exact .inl ⟨_, rfl⟩
  | discarded => exact .inl ⟨_, (btpWaitEdge_ctl _ s).trans hc⟩
  | quiet => exact .inl ⟨_, rfl⟩
  | startEdge => exact .inl ⟨_, rfl⟩
  | startQuiet =>
    rcases rxStartQuiet_cases (btpWaitEdge s.params.tBit s) with ⟨_, h⟩ | ⟨_, h⟩
    · exact .inr ⟨by simp, by rw [h]⟩
    · exact .inl ⟨.start, by rw [h]; exact (btpWaitEdge_ctl _ s).trans hc⟩
  | edge t _ _ h => exact .inl ⟨_, (rxEdge_ctl_ps h).1.trans ((btpWaitEdge_ctl _ s).trans hc)⟩
  | ended => exact .inr ⟨by simp, rfl⟩

/-- The decoder does not write PS. -/
theorem RxEffect.ps {p : RxPoint} {s u : State} (e : RxEffect s p u) : u.ps = s.ps := by
  cases e with
  | drained => rfl
  | startQuiet =>
    rcases rxStartQuiet_cases (btpWaitEdge s.params.tBit s) with ⟨_, h⟩ | ⟨_, h⟩
    · rw [h]; exact btpWaitEdge_ps _ s
    · rw [h]; exact btpWaitEdge_ps _ s
  | edge t _ _ h => exact (rxEdge_ctl_ps h).2.trans (btpWaitEdge_ps _ s)
  | discarded => exact btpWaitEdge_ps _ s
  | quiet => exact btpWaitEdge_ps _ s
  | startEdge => exact btpWaitEdge_ps _ s
  | ended => exact btpWaitEdge_ps _ s

/-- After the decoder, the dispatcher: RETRY is at most counted down and nothing else written (R212(d)). -/
theorem stepCount_frame (s : State) : ∃ r ≤ s.retry, stepCount s = { s with retry := r, ctl := .dispatch } := by
  unfold stepCount
  split
  · exact ⟨_, Nat.sub_le _ _, rfl⟩
  · exact ⟨_, le_rfl, rfl⟩

/-! ## The encoder -/

/-- After a data bit but the last the next bit follows (R155). -/
theorem afterBit_of_lt {s : State} (h : s.txK < 7) :
    afterBit s = { s with par := parStep s.par (txByte s) s.txK, txK := s.txK + 1, ctl := .tx .bit false } := by
  simp only [afterBit, if_pos h]

/-- After the last data bit the parity bit follows (R156). -/
theorem afterBit_of_not_lt {s : State} (h : ¬ s.txK < 7) :
    afterBit s = { s with par := parStep s.par (txByte s) s.txK, ctl := .tx .parity false } := by
  simp only [afterBit, if_neg h]

/-- An `emit` either is the last of its transmission, or moves on to a symbol half; a half inside a byte has a byte and a bit
that exist, if the one before had them and there is a byte at all (R158). -/
theorem stepTx_cases (sym : TxSym) (second : Bool) (s : State) :
    (sym = .eoc ∧ second = true ∧ stepTx sym second s = finishCommand (emit false s)) ∨
    ∃ v i k b sym' second',
      stepTx sym second s = { emit v s with txI := i, txK := k, par := b, ctl := .tx sym' second' } ∧
      (1 ≤ s.txLen → (sym ≠ .soc → s.txI < s.txLen ∧ s.txK ≤ 7) → sym' ≠ .soc → i < s.txLen ∧ k ≤ 7) := by
  match sym, second with
  | .soc, false => exact .inr ⟨_, _, _, _, _, _, rfl, fun _ _ h => absurd rfl h⟩
  | .soc, true => exact .inr ⟨_, _, _, _, _, _, rfl, fun h _ _ => ⟨h, Nat.zero_le 7⟩⟩
  | .bit, false => exact .inr ⟨_, _, _, _, _, _, rfl, fun _ h _ => h (by simp)⟩
  | .bit, true =>
    by_cases hk : s.txK < 7
    · exact .inr ⟨_, _, _, _, _, _, afterBit_of_lt (s := emit _ s) hk, fun _ h _ => ⟨(h (by simp)).1, hk⟩⟩
    · exact .inr ⟨_, _, _, _, _, _, afterBit_of_not_lt (s := emit _ s) hk, fun _ h _ => h (by simp)⟩
  | .parity, false => exact .inr ⟨_, _, _, _, _, _, rfl, fun _ h _ => h (by simp)⟩
  | .parity, true =>
    by_cases hi : s.txI + 1 < s.txLen
    · exact .inr ⟨_, _, _, _, _, _, if_pos hi, fun _ _ _ => ⟨hi, Nat.zero_le 7⟩⟩
    · exact .inr ⟨_, _, _, _, _, _, if_neg hi, fun _ h _ => h (by simp)⟩
  | .eoc, false => exact .inr ⟨_, _, _, _, _, _, rfl, fun _ h _ => h (by simp)⟩
  | .eoc, true => exact .inl ⟨rfl, rfl, rfl⟩

end Sys2Proof.Machine
end

section
/-! SUPPORT. Proofs: the invariant is kept by every named update of the state, one lemma per update, and from these by every kind
of step. -/

namespace Sys2Proof.Machine

variable {s u : State}

/-! ## Updates away from a transmission -/

/-- While nothing is being sent, MOD is released and no assignment to PS is owed. -/
theorem Inv.at_rest (h : Inv s) (hc : s.ctl.phase ≠ .sTx) : s.modLine = false ∧ s.psAfter = none :=
  ⟨h.released hc, h.settled hc⟩

/-- A move of the control phase to a position outside a transmission. -/
theorem Inv.setCtl (h : Inv s) {c : Ctl} (hr : s.modLine = false ∧ s.psAfter = none) (hc : c.phase ≠ .sTx)
    (started : c.inCall = true → s.initDone = true) (waiting : c = .rx .start → 1 ≤ s.rxC)
    (looping : c.decoding = true → 1 ≤ s.retry) : Inv (s.setCtl c) :=
  { h with
    started := started
    waiting := waiting
    looping := looping
    released := fun _ => hr.1
    sending := fun hx => absurd hx hc
    sendingByte := fun hx => absurd hx hc
    settled := fun _ => hr.2 }

/-- The end of a cycle: the next decode is entered only while RETRY is not 0 (R212). -/
theorem Inv.endCycle (h : Inv s) (hr : s.modLine = false ∧ s.psAfter = none) (hi : s.initDone = true) :
    Inv (endCycle s) := by
  by_cases h0 : s.retry = 0
  · rw [Machine.endCycle, if_pos h0]
    exact h.setCtl hr (by decide) (fun _ => hi) (by simp) (by simp [Ctl.decoding])
  · rw [Machine.endCycle, if_neg h0]
    exact h.setCtl hr (by decide) (fun _ => hi) (by simp) (fun _ => Nat.one_le_iff_ne_zero.2 h0)

theorem Inv.setPs (h : Inv s) (hp : s.psAfter = none) (p : ProtState) : Inv (s.setPs p) :=
  { h with owed := fun _ hq => nomatch hp.symm.trans hq }

theorem Inv.setFb (h : Inv s) (hc : s.ctl.phase ≠ .sTx) (f : Vector Byte 64) : Inv (s.setFb f) :=
  { h with
    sending := fun hx => absurd hx hc
    owed := fun _ hq => nomatch (h.settled hc).symm.trans hq }

theorem Inv.setStorage (h : Inv s) {m : Memory} (hm : Memory.wf m = true) : Inv (s.setStorage m) :=
  { h with storage := hm }

/-! ## The host and the entry -/

/-- The region bound is no longer listed, and the one bound before is listed canonically. -/
theorem Inv.bindRegion (h : Inv s) (ref : Nat) : Inv (bindRegion ref s) := by
  unfold Machine.bindRegion
  split
  · exact h
  · have hw := Regions.wf_write _ s.storageRef _ h.unbound h.storage
    exact { h with
      storage := Regions.wf_read _ ref h.unbound
      unbound := Regions.wf_write _ ref _ hw Memory.wf_nil
      bound := Regions.read_write_same _ ref _ hw }

theorem Inv.initializeBlock (h : Inv s) (hc : s.ctl = .done) (ref size : Nat) : Inv (initializeBlock ref size s) := by
  have hb := h.bindRegion ref
  have hcb : (Machine.bindRegion ref s).ctl = .done := by
    rw [← hc]; exact initializeBlock_ctl ref 0 s
  have hd : (Machine.bindRegion ref s).ctl.phase ≠ .sTx := by rw [hcb]; decide
  exact { hb with
    built := fun _ => by simp [Built, Machine.initializeBlock]
    started := fun _ => rfl
    rxBytes := Nat.zero_le _
    hbitPos := Nat.zero_le _
    bytePos := Nat.succ_pos 63
    released := fun _ => rfl
    sending := fun hx => absurd hx hd
    owed := fun _ hq => nomatch (hb.settled hd).symm.trans hq }

theorem Inv.hostStoreByte (h : Inv s) (ref off : Nat) (v : Byte) : Inv (hostStoreByte ref off v s) := by
  unfold Machine.hostStoreByte
  split
  · exact h.setStorage (Memory.wf_write _ off v h.storage)
  · rename_i hr
    exact { h with
      unbound := Regions.wf_write _ ref _ h.unbound (Memory.wf_write _ off v (Regions.wf_read _ ref h.unbound))
      bound := (Regions.read_write_other _ ref _ _ (Ne.symm hr)).trans h.bound }

theorem Inv.hostAct (h : Inv s) (hc : s.ctl = .done) (a : HostCall) : Inv (hostAct a s) := by
  cases a with
  | initBlock ref size => exact h.initializeBlock hc ref size
  | serviceReader =>
    exact h.setCtl (h.at_rest (by rw [hc]; decide)) (by decide) (by simp [Ctl.inCall]) (by simp) (by simp [Ctl.decoding])
  | storeByte ref off v => exact h.hostStoreByte ref off v

theorem Inv.stepDone (h : Inv s) (hc : s.ctl = .done) : Inv (stepDone s) := by
  rcases stepDone_cases s with ⟨a, q, _, e⟩ | ⟨_, e⟩
  · rw [e]
    have h' : Inv { s with hostIn := q } := { h with }
    exact h'.hostAct hc a
  · rw [e]
    exact h.hostAct hc .serviceReader

theorem Inv.stepCheck (h : Inv s) (hc : s.ctl = .check) (e : stepCheck s = .next u) : Inv u := by
  have hr := h.at_rest (by rw [hc]; decide)
  obtain ⟨hi, q, n, l, rfl | rfl⟩ := stepCheck_cases e
  · have h' : Inv { s with carrierIn := q, freeCount := n, portLog := l, retry := Config.retryInit } :=
      { h with retry := le_rfl, looping := fun _ => Nat.succ_pos 7 }
    exact h'.setCtl hr (by decide) (fun _ => hi) (by simp) (fun _ => Nat.succ_pos 7)
  · have h' : Inv { s with carrierIn := q, freeCount := n, portLog := l } := { h with }
    exact h'.setCtl hr (by decide) (by simp [Ctl.inCall]) (by simp) (by simp [Ctl.decoding])

/-! ## The decoder -/

/-- A move of the decoder to another of its positions, or its return. -/
theorem Inv.setCtl_decoding (h : Inv s) {p : RxPoint} (hc : s.ctl = .rx p) {c : Ctl} (hd : c.decoding = true)
    (waiting : c = .rx .start → 1 ≤ s.rxC) : Inv (s.setCtl c) :=
  h.setCtl (h.at_rest (by simp [hc, Ctl.phase])) (Ctl.phase_ne_sTx_of_decoding hd) (fun _ => h.started (by rw [hc]; rfl)) waiting
    (fun _ => h.looping (by rw [hc]; rfl))

/-- What the port writes is in no clause of the invariant. -/
theorem Inv.btpWaitEdge (h : Inv s) (d : Nat) : Inv (btpWaitEdge d s) := by
  obtain ⟨r, e, n, l, hw⟩ := btpWaitEdge_frame d s
  rw [hw]
  exact { h with }

/-- The port reports an edge no later than the deadline (R254). -/
theorem edge_le_of_answerBy {d t t' : Nat} (h : answerBy d t' = .edge t) : t ≤ d := by
  unfold answerBy at h
  split at h
  · cases h; assumption
  · cases h

theorem edge_le_of_btpWaitEdge {d t : Nat} (h : (Machine.btpWaitEdge d s).rxR = .edge t) : t ≤ d := by
  unfold Machine.btpWaitEdge at h
  split at h
  · cases h
  · exact edge_le_of_answerBy h
  · split at h
    · cases h
    · cases hf : Config.freeEdge s.freeCount with
      | none => rw [hf] at h; cases h
      | some t' => rw [hf] at h; exact edge_le_of_answerBy h

/-- The position within the ranges of R22 and R23. -/
def PositionInRange (s : State) : Prop := s.hbitPos ≤ 17 ∧ s.bytePos < Config.fbCap

/-- An advance keeps the position in its ranges, or is refused (R128, R134). -/
theorem PositionInRange.advance {n : Nat} (h : PositionInRange s) (hn : n ≤ 2) (e : advance n s = .next u) :
    PositionInRange u := by
  obtain ⟨hh, hb⟩ := h
  rcases advance_cases n s with ⟨h1, h2⟩ | ⟨h1, h2⟩
  · cases h2.symm.trans e
    exact ⟨by show s.hbitPos + n ≤ 17; omega, hb⟩
  · rcases roll_cases { s with hbitPos := s.hbitPos + n } with ⟨h3, h4⟩ | ⟨_, h4⟩
    · cases (h2.trans h4).symm.trans e
      exact ⟨by show s.hbitPos + n - 18 ≤ 17; omega, h3⟩
    · cases (h2.trans h4).symm.trans e

theorem PositionInRange.rxEdge {t : Nat} (h : PositionInRange s) (e : rxEdge t s = .next u) : PositionInRange u := by
  unfold Machine.rxEdge at e
  split at e
  · rename_i w hw
    have h1 : PositionInRange w := PositionInRange.advance (s := { s with rxT := t, rxE := gapExtra s.params t }) h
      (gapExtra_le s.params t) hw
    exact PositionInRange.advance (s := orMask w) h1 le_rfl e
  · cases e
  · cases e

theorem Inv.rxEdge {t : Nat} (h : Inv s) (hc : s.ctl.phase ≠ .sTx) (ht : t ≤ th3 s.params)
    (e : rxEdge t s = .next u) : Inv u := by
  have hp := PositionInRange.rxEdge ⟨h.hbitPos, h.bytePos⟩ e
  rcases rxEdge_frame t s with ⟨f, b, p, e'⟩ | e'
  · cases e'.symm.trans e
    exact { h.setFb hc f with hbitPos := hp.1, bytePos := hp.2, rxT := ht, rxE := gapExtra_le s.params t }
  · cases e'.symm.trans e

/-- The byte count of a finished frame is within the frame buffer (R133). -/
theorem byteCount_le_fbCap {b h : Nat} (hb : b < Config.fbCap) : byteCount b h ≤ Config.fbCap := by
  unfold byteCount
  split <;> omega

theorem Inv.rxStartEdge (h : Inv s) (hc : s.ctl = .rx .start) : Inv (rxStartEdge s) := by
  have h' : Inv { s with hbitPos := 0, bytePos := 0 } :=
    { h with hbitPos := Nat.zero_le _, bytePos := Nat.succ_pos 63 }
  exact (h'.setFb (by simp [hc, Ctl.phase]) _).setCtl_decoding (c := .rx .frame) hc rfl (by simp)

/-- The decoder returns with `n` received bytes; RETRY is looked at next. -/
theorem Inv.rxReturn (h : Inv s) {p : RxPoint} (hc : s.ctl = .rx p) {n : Nat} (hn : n ≤ Config.fbCap) :
    Inv { s with rxBytes := n, ctl := .count } := by
  have hx : s.ctl.phase ≠ .sTx := by simp [hc, Ctl.phase]
  have h' : Inv { s with rxBytes := n } :=
    { h with rxBytes := hn, owed := fun _ hq => nomatch (h.settled hx).symm.trans hq }
  exact h'.setCtl_decoding (c := .count) hc rfl (by simp)

theorem Inv.rxStartQuiet (h : Inv s) (hc : s.ctl = .rx .start) : Inv (rxStartQuiet s) := by
  have hle : s.rxC - 1 ≤ s.params.rxTimeoutBits := (Nat.sub_le _ _).trans h.rxC
  rcases rxStartQuiet_cases s with ⟨_, e⟩ | ⟨h0, e⟩
  · rw [e]
    exact { h.rxReturn hc (Nat.zero_le _) with rxC := hle, waiting := fun hx => nomatch hx }
  · rw [e]
    exact { h with rxC := hle, waiting := fun _ => Nat.one_le_iff_ne_zero.2 h0 }

theorem Inv.rxEndFrame (h : Inv s) (hc : s.ctl = .rx .frame) : Inv (rxEndFrame s) := by
  have h' : Inv (btpSetReplyDelay (fdtSelect s.hbitPos) { s with fdtSel := fdtSelect s.hbitPos }) := { h with }
  exact h'.rxReturn hc (byteCount_le_fbCap h.bytePos)

/-- Quiet loads the count of bit periods to wait for a start edge, at least one (R123, R7). -/
theorem Inv.rxQuiet (h : Inv s) (hc : s.ctl = .rx .quiet) :
    Inv { s with rxC := s.params.rxTimeoutBits, ctl := .rx .start } := by
  have h' : Inv { s with rxC := s.params.rxTimeoutBits } :=
    { h with rxC := le_rfl, waiting := fun _ => h.params.2 }
  exact h'.setCtl_decoding (c := .rx .start) hc rfl (fun _ => h.params.2)

theorem Inv.stepRx {p : RxPoint} (h : Inv s) (hc : s.ctl = .rx p) (e : stepRx p s = .next u) : Inv u := by
  have hw (d : Nat) : (Machine.btpWaitEdge d s).ctl = .rx p := (btpWaitEdge_ctl d s).trans hc
  cases stepRx_effect e with
  | drained =>
    have h' : Inv (btpDrain s) := { h with }
    exact h'.setCtl_decoding (c := .rx .quiet) hc rfl (by simp)
  | discarded => exact h.btpWaitEdge _
  | quiet => exact (h.btpWaitEdge _).rxQuiet (hw _)
  | startEdge => exact (h.btpWaitEdge _).rxStartEdge (hw _)
  | startQuiet => exact (h.btpWaitEdge _).rxStartQuiet (hw _)
  | edge t _ ht he =>
    exact (h.btpWaitEdge _).rxEdge (by simp [hc, Ctl.phase]) (by simpa using edge_le_of_btpWaitEdge ht) he
  | ended => exact (h.btpWaitEdge _).rxEndFrame (hw _)

theorem Inv.stepCount (h : Inv s) (hc : s.ctl = .count) : Inv (stepCount s) := by
  have hr := h.at_rest (by simp [hc, Ctl.phase])
  obtain ⟨r, hle, e⟩ := stepCount_frame s
  have h' := h.setCtl (c := .dispatch) hr (by decide) (fun _ => h.started (by rw [hc]; rfl)) (by simp)
    (by simp [Ctl.decoding])
  rw [e]
  exact { h' with retry := hle.trans h.retry, looping := fun hx => nomatch hx }

/-! ## Dispatch -/

theorem Inv.anythingElse (h : Inv s) (hc : s.ctl = .dispatch) : Inv (anythingElse s) := by
  have hr := h.at_rest (by simp [hc, Ctl.phase])
  rw [anythingElse_eq]
  exact (h.setPs hr.2 _).endCycle hr (h.started (by rw [hc]; rfl))

/-- A transmission begins: of bytes that exist, and with the assignment to PS its command owes, if any. -/
theorem Inv.startTx (h : Inv s) (hi : s.initDone = true) {src : TxSrc} {n : Nat} {after : Option ProtState}
    (hn : 1 ≤ n ∧ n ≤ 18 ∧ n ≤ (srcBytes s src).length) (ho : ∀ p, after = some p → Owed s p) :
    Inv (startTx src n after s) :=
  { h with
    started := fun _ => hi
    waiting := fun hx => nomatch hx
    looping := fun hx => nomatch hx
    released := fun hx => absurd rfl hx
    sending := fun _ => hn
    sendingByte := fun _ hx => absurd rfl (hx false)
    settled := fun hx => absurd rfl hx
    owed := ho }

/-- An answer written into FB and sent from there owes no assignment to PS (R182, R183). -/
theorem Inv.answerFromFb (h : Inv s) (hc : s.ctl = .dispatch) (f : Vector Byte 64) {n : Nat} (hn : 1 ≤ n ∧ n ≤ 18) :
    Inv (Machine.startTx .fb n none (s.setFb f)) :=
  (h.setFb (by simp [hc, Ctl.phase]) f).startTx (h.started (by rw [hc]; rfl)) (by simp [srcBytes]; omega) (by simp)

theorem Inv.effect {i : Instr} (h : Inv s) (hc : s.ctl = .dispatch)
    (hd : decodeFrame s.statics.hlta (received s) = .ok i) (e : Effect i s u) : Inv u := by
  have hr := h.at_rest (by simp [hc, Ctl.phase])
  have hi : s.initDone = true := h.started (by rw [hc]; rfl)
  have hb : s.statics = buildStatics s.params.uid := h.built hi
  cases e with
  | other => exact h.anythingElse hc
  | reqa hq hp =>
    subst hq
    exact h.startTx hi (by simp [srcBytes, hb, buildStatics]) (by rintro _ ⟨⟩; exact .inl ⟨hp, hd, rfl⟩)
  | wupa hq hp =>
    subst hq
    exact h.startTx hi (by simp [srcBytes, hb, buildStatics]) (by rintro _ ⟨⟩; exact .inr (.inl ⟨hp, hd, rfl⟩))
  | anticollCl1 => exact h.startTx hi (by simp [srcBytes, hb, buildStatics]) (by simp)
  | anticollCl2 => exact h.startTx hi (by simp [srcBytes, hb, buildStatics]) (by simp)
  | selectCl1 => exact h.startTx hi (by simp [srcBytes, hb, buildStatics, withCrc, crcBytes]) (by simp)
  | selectCl2 hq hp =>
    subst hq
    exact h.startTx hi (by simp [srcBytes, hb, buildStatics, withCrc, crcBytes])
      (by rintro _ ⟨⟩; exact .inr (.inr ⟨hp, hd, rfl⟩))
  | read => exact h.answerFromFb hc _ (by decide)
  | accepted block rest =>
    have hs := h.setStorage (regionFill_wf s.storageSize s.storage (blockOffset block.toNat 0) (writeData rest) h.storage)
    exact hs.answerFromFb hc _ (by decide)
  | refused => exact h.answerFromFb hc _ (by decide)
  | hlta => exact (h.setPs hr.2 _).endCycle hr hi

theorem Inv.stepDispatch (h : Inv s) (hc : s.ctl = .dispatch) (e : stepDispatch s = .next u) : Inv u := by
  obtain ⟨v, hv, hcase⟩ := stepDispatch_cases s
  cases hv.symm.trans e
  rcases hcase with rfl | ⟨i, hd, _, he⟩
  · exact h.anythingElse hc
  · exact h.effect hc hd he

/-! ## The encoder -/

/-- An `emit` inside a transmission. -/
theorem Inv.emit (h : Inv s) (hc : s.ctl.phase = .sTx) (v : Bool) : Inv (emit v s) :=
  { h with released := fun hx => absurd hc hx }

/-- After the last slot MOD is released and the assignment to PS is made (R151, R158). -/
theorem Inv.finishCommand (h : Inv s) (hc : s.ctl.phase = .sTx) (hi : s.initDone = true) (hm : s.modLine = false) :
    Inv (finishCommand s) := by
  have h' : Inv { s with ps := s.psAfter.getD s.ps, psAfter := none } :=
    { h with settled := fun hx => absurd hc hx, owed := fun _ hq => nomatch hq }
  exact h'.endCycle ⟨hm, rfl⟩ hi

/-- A transmission moves on to another symbol half; inside a byte there must be that byte and bit. -/
theorem Inv.moveTx (h : Inv s) (hc : s.ctl.phase = .sTx) {i k : Nat} {b : Bool} {sym : TxSym} {second : Bool}
    (hi : sym ≠ .soc → i < s.txLen ∧ k ≤ 7) :
    Inv { s with txI := i, txK := k, par := b, ctl := .tx sym second } :=
  { h with
    started := fun _ => h.started (Ctl.inCall_of_phase_eq_sTx hc)
    waiting := fun hx => nomatch hx
    looping := fun hx => nomatch hx
    released := fun hx => absurd rfl hx
    sending := fun _ => h.sending hc
    sendingByte := fun _ hx => hi fun hs => hx second (by rw [hs])
    settled := fun hx => absurd rfl hx }

theorem Inv.stepTx {sym : TxSym} {second : Bool} (h : Inv s) (hc : s.ctl = .tx sym second) :
    Inv (stepTx sym second s) := by
  have hx : s.ctl.phase = .sTx := by rw [hc]; rfl
  rcases stepTx_cases sym second s with ⟨_, _, e⟩ | ⟨v, i, k, b, sym', second', e, hb⟩
  · rw [e]
    exact (h.emit hx false).finishCommand hx (h.started (by rw [hc]; rfl)) rfl
  · rw [e]
    exact (h.emit hx v).moveTx hx (hb (h.sending hx).1 fun hs => h.sendingByte hx (by simp [hc, hs]))

end Sys2Proof.Machine

open Sys2Proof Sys2Proof.Machine

/-- Settles O54: every kind of step keeps the invariant. -/
theorem everyStepKeepsTheInvariant : Obligations.EveryStepKeepsTheInvariant := by
  intro s u h e
  rcases step_cases e with ⟨hc, rfl⟩ | ⟨hc, e⟩ | ⟨p, hc, e⟩ | ⟨hc, rfl⟩ | ⟨hc, e⟩ | ⟨sym, second, hc, rfl⟩
  · exact h.stepDone hc
  · exact h.stepCheck hc e
  · exact h.stepRx hc e
  · exact h.stepCount hc
  · exact h.stepDispatch hc e
  · exact h.stepTx hc
end

section
/-! SUPPORT. Proofs: the control phases follow the service sequence (R29, R61), and PS moves only along the rows of R189. -/

namespace Sys2Proof.Machine

variable {s u : State}

/-! ## The command of a frame some row matches -/

/-- R171's comparison with FB is the comparison with the received bytes. -/
theorem matchPattern_eq_beginsWith (h : s.rxBytes ≤ Config.fbCap) (pat : List Byte) :
    matchPattern s pat = beginsWith pat (received s) := by
  have hl := received_length s h
  rw [Bool.eq_iff_iff, beginsWith, List.isPrefixOf_iff_prefix, List.prefix_iff_getElem]
  simp only [matchPattern, Bool.and_eq_true, decide_eq_true_eq, List.all_eq_true, List.mem_range, beq_iff_eq, hl,
    ← exists_prop]
  refine exists_congr fun hp => forall₂_congr fun i hi => ?_
  rw [← received_getD s i (by omega), List.getD_eq_getElem _ _ (by omega), List.getD_eq_getElem _ _ hi, eq_comm]

/-- The frames that the row of a command matches (30_encoding.md R80), with the operands they carry (R78). -/
inductive RowMatches : Instr → List Byte → Prop
  | reqa (t : List Byte) : RowMatches .reqa (0x26 :: t)
  | wupa (t : List Byte) : RowMatches .wupa (0x52 :: t)
  | anticollCl1 (t : List Byte) : RowMatches .anticollCl1 (0x93 :: 0x20 :: t)
  | anticollCl2 (t : List Byte) : RowMatches .anticollCl2 (0x95 :: 0x20 :: t)
  | selectCl1 (t : List Byte) : RowMatches .selectCl1 (0x93 :: 0x70 :: t)
  | selectCl2 (t : List Byte) : RowMatches .selectCl2 (0x95 :: 0x70 :: t)
  | read (block : Byte) (t : List Byte) : RowMatches (.read block) (0x30 :: block :: t)
  | write (block : Byte) (rest : List Byte) : RowMatches (.write block rest) (0xA2 :: block :: rest)
  | hlta (t : List Byte) : RowMatches .hlta (0x50 :: 0x00 :: 0x57 :: 0xCD :: t)

/-- A frame that a row matches is that row's command: no earlier test of the decoder takes it. -/
theorem RowMatches.decodeFrame {i : Instr} {bs : List Byte} (h : RowMatches i bs) (hl : bs.length ≤ Config.fbCap) :
    decodeFrame hltaPattern bs = .ok i := by
  rw [Sys2Proof.decodeFrame, if_neg (Nat.not_lt.2 hl)]
  cases h <;>
    simp [patReqa, patWupa, patAnticollCl1, patAnticollCl2, patSelectCl1, patSelectCl2, patRead, patWrite, hltaPattern,
      Config.cmdReqa, Config.cmdWupa, Config.selCl1, Config.selCl2, Config.nvbAnticoll, Config.nvbSelect,
      Config.cmdRead, Config.cmdWrite]

/-- The check value of 50 00, the bytes of HLTA before its CRC (R101, R184). -/
theorem crcRun_hlta : crcRun [0x50, 0x00] = 0xCD57 := by
  simp [crcRun, crcByte, crcShift, Config.crcSeed]

/-- The static frame HLTA that setup builds has the pattern of its row (R211). -/
theorem hlta_of_buildStatics (uid : Vector Byte 7) : (buildStatics uid).hlta = hltaPattern := by
  show withCrc [0x50, 0x00] = hltaPattern
  rw [withCrc, crcBytes, crc16, crcRun_hlta]
  rfl

/-- The row of a command is one of those of the protocol state `p` (R80, R82). -/
def Accepted (p : ProtState) : Instr → Prop
  | .reqa => p = ⟨.idle, false⟩
  | .wupa => p = ⟨.idle, true⟩
  | .anticollCl1 => p.phase = .ready
  | .anticollCl2 => p.phase = .ready
  | .selectCl1 => p.phase = .ready
  | .selectCl2 => p.phase = .ready
  | .read _ => p.phase = .active
  | .write _ _ => p.phase = .active
  | .hlta => p.phase = .active

/-- Where some row of the current phase matches the received frame, the frame is a command accepted there. -/
theorem accepted_of_selectsNoRow_eq_false (hl : s.rxBytes ≤ Config.fbCap) (hh : s.statics.hlta = hltaPattern)
    (h : selectsNoRow s = false) :
    ∃ i, decodeFrame s.statics.hlta (received s) = .ok i ∧ Accepted s.ps i := by
  suffices ∃ i, RowMatches i (received s) ∧ Accepted s.ps i by
    obtain ⟨i, hm, ha⟩ := this
    exact ⟨i, hh ▸ hm.decodeFrame (received_length_le s), ha⟩
  simp only [selectsNoRow, matchPattern_eq_beginsWith hl, hh, beginsWith, hltaPattern] at h
  cases hp : s.ps.phase with
  | idle =>
    cases hH : s.ps.halted with
    | false =>
      simp only [hp, hH, Bool.not_eq_false', List.isPrefixOf_iff_prefix, Bool.false_eq_true, if_false] at h
      obtain ⟨t, ht⟩ := h
      exact ⟨.reqa, ht ▸ RowMatches.reqa t, by simp only [Accepted, ← hp, ← hH]⟩
    | true =>
      simp only [hp, hH, Bool.not_eq_false', List.isPrefixOf_iff_prefix, if_true] at h
      obtain ⟨t, ht⟩ := h
      exact ⟨.wupa, ht ▸ RowMatches.wupa t, by simp only [Accepted, ← hp, ← hH]⟩
  | ready =>
    simp only [hp, Bool.not_eq_false', Bool.or_eq_true, List.isPrefixOf_iff_prefix, or_assoc] at h
    rcases h with ⟨t, ht⟩ | ⟨t, ht⟩ | ⟨t, ht⟩ | ⟨t, ht⟩
    · exact ⟨.anticollCl1, ht ▸ RowMatches.anticollCl1 t, hp⟩
    · exact ⟨.anticollCl2, ht ▸ RowMatches.anticollCl2 t, hp⟩
    · exact ⟨.selectCl1, ht ▸ RowMatches.selectCl1 t, hp⟩
    · exact ⟨.selectCl2, ht ▸ RowMatches.selectCl2 t, hp⟩
  | active =>
    simp only [hp, Bool.not_eq_false', Bool.or_eq_true, Bool.and_eq_true, decide_eq_true_eq,
      List.isPrefixOf_iff_prefix] at h
    have hr := received_length s hl
    rcases h with ⟨h2, ⟨t, ht⟩ | ⟨t, ht⟩⟩ | ⟨t, ht⟩
    · obtain ⟨block, t, rfl⟩ := List.exists_cons_of_length_pos (l := t) (by rw [← ht] at hr; simp at hr; omega)
      exact ⟨.read block, ht ▸ RowMatches.read block t, hp⟩
    · obtain ⟨block, t, rfl⟩ := List.exists_cons_of_length_pos (l := t) (by rw [← ht] at hr; simp at hr; omega)
      exact ⟨.write block t, ht ▸ RowMatches.write block t, hp⟩
    · exact ⟨.hlta, ht ▸ RowMatches.hlta t, hp⟩

/-! ## PS -/

/-- Of the two outcomes of a command, its own is the one where it is accepted. -/
theorem accepted_outcome {A : Prop} {r : Result} {v w : State} (h : (A ∧ r = .next v) ∨ (¬ A ∧ r = .next w)) (ha : A)
    (e : r = .next u) : u = v := by
  rcases h with ⟨_, hv⟩ | ⟨hn, _⟩
  · cases hv.symm.trans e; rfl
  · exact absurd ha hn

/-- A command accepted in the current phase leaves PS as it is while it answers; HLTA, which does not answer, writes it. -/
theorem exec_ps_of_accepted {i : Instr} (ha : Accepted s.ps i) (e : exec i s = .next u) :
    u.ps = s.ps ∨ (i = .hlta ∧ s.ps.phase = .active ∧ u.ps = ⟨.idle, true⟩) := by
  cases i with
  | reqa => exact .inl (accepted_outcome (execReqa_cases s) ha e ▸ rfl)
  | wupa => exact .inl (accepted_outcome (execWupa_cases s) ha e ▸ rfl)
  | anticollCl1 => exact .inl (accepted_outcome (execAnticollCl1_cases s) ha e ▸ rfl)
  | anticollCl2 => exact .inl (accepted_outcome (execAnticollCl2_cases s) ha e ▸ rfl)
  | selectCl1 => exact .inl (accepted_outcome (execSelectCl1_cases s) ha e ▸ rfl)
  | selectCl2 => exact .inl (accepted_outcome (execSelectCl2_cases s) ha e ▸ rfl)
  | read block => exact .inl (by rw [accepted_outcome (execRead_cases block s) ha e, startTx_ps, setFb_ps])
  | write block rest =>
    rcases execWrite_cases block rest s with ⟨_, _, hv⟩ | ⟨_, _, hv⟩ | ⟨hn, _⟩
    · cases hv.symm.trans e; exact .inl (by simp)
    · cases hv.symm.trans e; exact .inl (by simp)
    · exact absurd ha hn
  | hlta => exact .inr ⟨rfl, ha, accepted_outcome (execHlta_cases s) ha e ▸ rfl⟩

/-- Between calls PS is written by the set-up call alone (R261). -/
theorem stepDone_ps (s : State) :
    (stepDone s).ps = s.ps ∨
      (∃ ref size q, s.hostIn = .initBlock ref size :: q) ∧ (stepDone s).ps = ⟨.idle, false⟩ := by
  rcases stepDone_cases s with ⟨a, q, hq, e⟩ | ⟨_, e⟩
  · rw [e]
    rcases hostAct_ps a { s with hostIn := q } with hu | ⟨⟨ref, size, rfl⟩, hu⟩
    · exact .inl hu
    · exact .inr ⟨⟨ref, size, q, hq⟩, hu⟩
  · exact .inl (by rw [e]; rfl)

/-- Falling back writes PS in READY, and in ACTIVE on a frame: back to IDLE with H kept (R181, R185). -/
theorem anythingElse_ps (hne : (anythingElse s).ps ≠ s.ps) :
    (s.ps.phase = .ready ∨ (s.ps.phase = .active ∧ s.rxBytes ≠ 0)) ∧ (anythingElse s).ps = ⟨.idle, s.ps.halted⟩ := by
  rw [anythingElse_eq, endCycle_ps, setPs_ps] at hne ⊢
  split
  · exact ⟨‹_›, rfl⟩
  · exact absurd (if_neg ‹_›) hne

/-- A dispatch writes PS by falling back or by HLTA (R170). -/
theorem stepDispatch_ps (e : stepDispatch s = .next u) (hne : u.ps ≠ s.ps) :
    u = anythingElse s ∨
      (s.ps.phase = .active ∧ decodeFrame s.statics.hlta (received s) = .ok .hlta ∧ u.ps = ⟨.idle, true⟩) := by
  obtain ⟨v, hv, hcase⟩ := stepDispatch_cases s
  cases hv.symm.trans e
  rcases hcase with rfl | ⟨i, hd, _, he⟩
  · exact .inl rfl
  · cases he with
    | other => exact .inl rfl
    | hlta hq hp => exact .inr ⟨hp, hq ▸ hd, rfl⟩
    | _ => exact absurd (by simp) hne

/-- From a good state, a dispatch that writes PS follows a row of R189 that leaves READY or ACTIVE for IDLE or HALT. -/
theorem Inv.stepDispatch_moves_ps (h : Inv s) (hc : s.ctl = .dispatch) (e : Machine.stepDispatch s = .next u)
    (hne : u.ps ≠ s.ps) :
    (s.ps.phase = .ready ∧ selectsNoRow s = true ∧ u.ps = ⟨.idle, s.ps.halted⟩) ∨
    (s.ps.phase = .active ∧ s.rxBytes ≠ 0 ∧ selectsNoRow s = true ∧ u.ps = ⟨.idle, s.ps.halted⟩) ∨
    (s.ps.phase = .active ∧ decodeFrame s.statics.hlta (received s) = .ok .hlta ∧ u.ps = ⟨.idle, true⟩) := by
  cases hrow : selectsNoRow s with
  | false =>
    have hb : s.statics = buildStatics s.params.uid := h.built (h.started (by rw [hc]; rfl))
    obtain ⟨i, hd, ha⟩ := accepted_of_selectsNoRow_eq_false h.rxBytes (by rw [hb]; exact hlta_of_buildStatics _) hrow
    simp only [Machine.stepDispatch, hd] at e
    rcases exec_ps_of_accepted ha e with hu | ⟨rfl, hp, hu⟩
    · exact absurd hu hne
    · exact .inr (.inr ⟨hp, hd, hu⟩)
  | true =>
    rcases stepDispatch_ps e hne with rfl | hlta
    · obtain ⟨hp | ⟨hp, h0⟩, hu⟩ := anythingElse_ps hne
      · exact .inl ⟨hp, rfl, hu⟩
      · exact .inr (.inl ⟨hp, h0, rfl, hu⟩)
    · exact .inr (.inr hlta)

/-- The last `emit` of a transmission assigns the value its command owes to PS, if any; no other writes PS (R60). -/
theorem stepTx_ps {sym : TxSym} {second : Bool} (hne : (stepTx sym second s).ps ≠ s.ps) :
    sym = .eoc ∧ second = true ∧ s.psAfter = some (stepTx sym second s).ps := by
  rcases stepTx_cases sym second s with ⟨rfl, rfl, e⟩ | ⟨_, _, _, _, _, _, e, _⟩
  · have hps : (finishCommand (emit false s)).ps = s.psAfter.getD s.ps := rfl
    rw [e, hps] at hne ⊢
    cases ha : s.psAfter with
    | none => exact absurd (by rw [ha]; rfl) hne
    | some p => exact ⟨rfl, rfl, rfl⟩
  · exact absurd (by rw [e]; rfl) hne

end Sys2Proof.Machine

open Sys2Proof Sys2Proof.Machine

/-- Settles O52: each kind of step leaves its control phase only as the service sequence has it. -/
theorem controlPhasesFollowTheServiceSequence : Obligations.ControlPhasesFollowTheServiceSequence := by
  intro s u e
  rcases step_cases e with ⟨hc, rfl⟩ | ⟨hc, e⟩ | ⟨p, hc, e⟩ | ⟨hc, rfl⟩ | ⟨hc, e⟩ | ⟨sym, second, hc, rfl⟩
  · rcases stepDone_ctl hc with hu | hu
    · simp [hc, hu, Ctl.phase]
    · simp [hc, hu, Ctl.phase]
  · obtain ⟨_, _, _, _, rfl | rfl⟩ := stepCheck_cases e
    · simp [hc, Ctl.phase]
    · simp [hc, Ctl.phase]
  · rcases (stepRx_effect e).ctl hc with ⟨q, hu⟩ | ⟨hp, hu⟩
    · simp [hc, hu, Ctl.phase]
    · simp [hc, hu, hp, Ctl.phase]
  · obtain ⟨_, _, hu⟩ := stepCount_frame s
    simp [hc, hu, Ctl.phase]
  · rcases stepDispatch_transmits_or_cycleOver e with hu | ⟨hu, hr⟩ | ⟨hu, hr⟩
    · simp [hc, hu, Ctl.phase]
    · simp [hc, hu, hr, Ctl.phase]
    · simp [hc, hu, hr, Ctl.phase]
  · rcases stepTx_cases sym second s with ⟨rfl, rfl, hu⟩ | ⟨_, _, _, _, _, _, hu, _⟩
    · rcases cycleOver_finishCommand (emit false s) with ⟨hu', hr⟩ | ⟨hu', hr⟩
      · simp [hc, hu, hu', hr, Ctl.phase]
      · simp [hc, hu, hu', hr, Ctl.phase]
    · simp [hc, hu, Ctl.phase]

/-- Settles O55: of all steps, only the set-up call, a dispatch and the last slot of an answer write PS. -/
theorem protocolStateMovesOnlyAlongTheTable : Obligations.ProtocolStateMovesOnlyAlongTheTable := by
  intro s u h e hne
  rcases step_cases e with ⟨hc, rfl⟩ | ⟨hc, e⟩ | ⟨p, hc, e⟩ | ⟨hc, rfl⟩ | ⟨hc, e⟩ | ⟨sym, second, hc, rfl⟩
  · obtain ⟨hi, hu⟩ := (stepDone_ps s).resolve_left hne
    exact .inl ⟨hc, hu, hi⟩
  · obtain ⟨_, _, _, _, rfl | rfl⟩ := stepCheck_cases e
    · exact absurd rfl hne
    · exact absurd rfl hne
  · exact absurd (stepRx_effect e).ps hne
  · obtain ⟨_, _, hu⟩ := stepCount_frame s
    exact absurd (by rw [hu]) hne
  · exact .inr (.inr ⟨hc, h.stepDispatch_moves_ps hc e hne⟩)
  · obtain ⟨rfl, rfl, ha⟩ := stepTx_ps hne
    exact .inr (.inl ⟨hc, h.owed _ ha⟩)
end

section
/-! SUPPORT. Proofs: what a byte write does to every byte of every region (R55), and that the canonical form of a storage region
is one list for each way of reading it. -/

namespace Sys2Proof.Machine

/-! ## One byte written -/

/-- What a byte write does to every byte of every region: it is range-checked, and no other byte changes (R55). -/
theorem byteAt_memWrite (s : State) (off : Nat) (v : Byte) (h : Memory.wf s.storage = true) (ref off' : Nat) :
    byteAt (memWrite s off v) ref off' =
      if ref = s.storageRef ∧ off' = off ∧ off < s.storageSize then v else byteAt s ref off' := by
  unfold byteAt memWrite
  by_cases hr : ref = s.storageRef
  · simp only [setStorage_storageRef, setStorage_storage, hr, if_true, true_and]
    exact read_regionWrite _ _ off v h off'
  · simp [hr]

/-- A byte write out of range is dropped without a trace (R55). -/
theorem memWrite_of_ge (s : State) (off : Nat) (v : Byte) (h : s.storageSize ≤ off) : memWrite s off v = s := by
  rw [memWrite, regionWrite, if_neg (by omega)]
  rfl

/-! ## Canonical maps that read alike -/

section canonical
variable {β : Type} [DecidableEq β] {d : β} {k k' : Nat} {v v' : β} {a b : List (Nat × β)}

omit [DecidableEq β] in
theorem sparseRead_cons_self (k : Nat) (v : β) (a : List (Nat × β)) : sparseRead d ((k, v) :: a) k = v := if_pos rfl

/-- The tail of a canonical map reads as the map does, but for the head's key, which it does not list. -/
theorem sparseRead_tail (ha : sparseWf d ((k, v) :: a) = true) (j : Nat) :
    sparseRead d a j = if j = k then d else sparseRead d ((k, v) :: a) j := by
  obtain ⟨_, hall, _⟩ := (sparseWf_cons k v a).1 ha
  split
  · rename_i hj
    rw [hj]
    exact sparseRead_of_all_gt a k hall
  · rename_i hj
    rw [sparseRead, if_neg (Ne.symm hj)]

/-- The first key of a canonical map is the least that does not read as the unlisted value: no canonical map that reads alike
begins with a greater key. -/
theorem head_le_of_sparseRead_eq (ha : sparseWf d ((k, v) :: a) = true) (hb : sparseWf d ((k', v') :: b) = true)
    (h : ∀ j, sparseRead d ((k, v) :: a) j = sparseRead d ((k', v') :: b) j) : k' ≤ k := by
  obtain ⟨hv, _, _⟩ := (sparseWf_cons k v a).1 ha
  obtain ⟨_, hall, _⟩ := (sparseWf_cons k' v' b).1 hb
  by_contra hk
  have hd : sparseRead d ((k', v') :: b) k = d :=
    sparseRead_of_all_gt _ k (by simp [all_gt_mono hall (Nat.le_of_not_le hk), Nat.lt_of_not_le hk])
  exact hv (by rw [← sparseRead_cons_self k v a, h k, hd])

/-- A canonical map that lists a key reads unlike the empty one. -/
theorem not_forall_sparseRead_cons_eq (ha : sparseWf d ((k, v) :: a) = true) :
    ¬ ∀ j, sparseRead d ((k, v) :: a) j = d := fun h =>
  ((sparseWf_cons k v a).1 ha).1 (by rw [← sparseRead_cons_self k v a, h k])

/-- Canonical maps that read alike are the same list. -/
theorem sparse_ext (ha : sparseWf d a = true) (hb : sparseWf d b = true)
    (h : ∀ j, sparseRead d a j = sparseRead d b j) : a = b := by
  induction a generalizing b with
  | nil =>
    cases b with
    | nil => rfl
    | cons f b => exact absurd (fun j => (h j).symm) (not_forall_sparseRead_cons_eq hb)
  | cons e a ih =>
    obtain ⟨k, v⟩ := e
    cases b with
    | nil => exact absurd h (not_forall_sparseRead_cons_eq ha)
    | cons f b =>
      obtain ⟨k', v'⟩ := f
      obtain rfl : k = k' :=
        Nat.le_antisymm (head_le_of_sparseRead_eq hb ha fun j => (h j).symm) (head_le_of_sparseRead_eq ha hb h)
      obtain rfl : v = v' := by simpa only [sparseRead_cons_self] using h k
      have htail : ∀ j, sparseRead d a j = sparseRead d b j := fun j => by
        rw [sparseRead_tail ha, sparseRead_tail hb, h]
      obtain ⟨_, _, ha'⟩ := (sparseWf_cons k v a).1 ha
      obtain ⟨_, _, hb'⟩ := (sparseWf_cons k v b).1 hb
      rw [ih ha' hb' htail]

end canonical

end Sys2Proof.Machine

open Sys2Proof Sys2Proof.Machine

/-- Settles O22: the clauses are the range check of one byte write, read at the byte written and at any other. -/
theorem byteWriteIsReadBackOrDropped : Obligations.ByteWriteIsReadBackOrDropped := by
  intro s off v h
  refine ⟨fun ho => ?_, fun ref off' hne => ?_, memWrite_of_ge s off v, rfl⟩
  · rw [memRead_eq, memWrite_storageRef, memWrite_storageSize, if_pos ho, byteAt_memWrite s off v h, if_pos ⟨rfl, rfl, ho⟩]
  · rw [byteAt_memWrite s off v h, if_neg fun hw => hne ⟨hw.1, hw.2.1⟩]

/-- Settles O24: a storage region is a sparse map, and canonical sparse maps are extensional. -/
theorem canonicalMemoriesThatReadAlikeAreEqual : Obligations.CanonicalMemoriesThatReadAlikeAreEqual :=
  fun _ _ ha hb h => sparse_ext ha hb h
end

section
/-! SUPPORT. Proofs: the static frames and the parameters are written by `initialize` alone, and the parameters not even there
(R64, R187(f)). -/

namespace Sys2Proof.Machine

variable {s u : State}

/-- `u` has the parameters and the static frames of `s`. -/
def SameFixed (s u : State) : Prop := u.params = s.params ∧ u.statics = s.statics

theorem SameFixed.trans {v : State} (h : SameFixed s u) (h' : SameFixed u v) : SameFixed s v :=
  ⟨h'.1.trans h.1, h'.2.trans h.2⟩

/-- Of the host's actions only `initialize` writes a static frame, and it builds them all anew (R211). -/
theorem hostAct_fixed (a : HostCall) (s : State) :
    SameFixed s (hostAct a s) ∨
    (∃ ref size, a = .initBlock ref size) ∧ (hostAct a s).params = s.params ∧
      (hostAct a s).statics = buildStatics s.params.uid := by
  cases a with
  | initBlock ref size => exact .inr ⟨⟨ref, size, rfl⟩, bindRegion_params ref s, rfl⟩
  | serviceReader => exact .inl ⟨rfl, rfl⟩
  | storeByte ref off v =>
    obtain ⟨_, _, h⟩ := hostStoreByte_frame ref off v s
    rw [hostAct, h]
    exact .inl ⟨rfl, rfl⟩

theorem stepDone_fixed (s : State) :
    SameFixed s (stepDone s) ∨
    (∃ ref size q, s.hostIn = .initBlock ref size :: q) ∧ (stepDone s).params = s.params ∧
      (stepDone s).statics = buildStatics s.params.uid := by
  rcases stepDone_cases s with ⟨a, q, hq, e⟩ | ⟨_, e⟩
  · rw [e]
    rcases hostAct_fixed a { s with hostIn := q } with h | ⟨⟨ref, size, rfl⟩, h⟩
    · exact .inl h
    · exact .inr ⟨⟨ref, size, q, hq⟩, h⟩
  · rw [e]
    exact .inl ⟨rfl, rfl⟩

theorem btpWaitEdge_fixed (d : Nat) (s : State) : SameFixed s (btpWaitEdge d s) := by
  obtain ⟨_, _, _, _, h⟩ := btpWaitEdge_frame d s
  rw [h]
  exact ⟨rfl, rfl⟩

theorem rxEdge_fixed {t : Nat} (h : rxEdge t s = .next u) : SameFixed s u := by
  rcases rxEdge_frame t s with ⟨_, _, _, e⟩ | e
  · cases e.symm.trans h
    exact ⟨rfl, rfl⟩
  · cases e.symm.trans h

theorem rxStartQuiet_fixed (s : State) : SameFixed s (rxStartQuiet s) := by
  rcases rxStartQuiet_cases s with ⟨_, h⟩ | ⟨_, h⟩
  · rw [h]; exact ⟨rfl, rfl⟩
  · rw [h]; exact ⟨rfl, rfl⟩

/-- The decoder writes neither. -/
theorem RxEffect.fixed {p : RxPoint} (e : RxEffect s p u) : SameFixed s u := by
  cases e with
  | drained => exact ⟨rfl, rfl⟩
  | startQuiet => exact (btpWaitEdge_fixed _ s).trans (rxStartQuiet_fixed _)
  | edge t _ _ h => exact (btpWaitEdge_fixed _ s).trans (rxEdge_fixed h)
  | discarded => exact btpWaitEdge_fixed _ s
  | quiet => exact btpWaitEdge_fixed _ s
  | startEdge => exact btpWaitEdge_fixed _ s
  | ended => exact btpWaitEdge_fixed _ s

theorem anythingElse_fixed (s : State) : SameFixed s (anythingElse s) := by
  rw [anythingElse_eq]
  exact ⟨rfl, rfl⟩

/-- No command writes either: what it writes is FB, storage, PS and the arguments of a transmission. -/
theorem Effect.fixed {i : Instr} (e : Effect i s u) : SameFixed s u := by
  cases e with
  | other => exact anythingElse_fixed s
  | _ => exact ⟨by simp, by simp⟩

theorem stepDispatch_fixed (h : stepDispatch s = .next u) : SameFixed s u := by
  obtain ⟨v, hv, hc⟩ := stepDispatch_cases s
  obtain rfl : v = u := by simpa [hv] using h
  rcases hc with rfl | ⟨i, _, _, e⟩
  · exact anythingElse_fixed s
  · exact e.fixed

theorem stepTx_fixed (sym : TxSym) (second : Bool) (s : State) : SameFixed s (stepTx sym second s) := by
  rcases stepTx_cases sym second s with ⟨_, _, e⟩ | ⟨_, _, _, _, _, _, e, _⟩
  · rw [e]; exact ⟨rfl, rfl⟩
  · rw [e]; exact ⟨rfl, rfl⟩

/-- Every step leaves both as they are, but for the set-up call, which builds the static frames anew. -/
theorem step_fixed (e : step s = .next u) :
    SameFixed s u ∨
    s.ctl = .done ∧ (∃ ref size q, s.hostIn = .initBlock ref size :: q) ∧ u.params = s.params ∧
      u.statics = buildStatics s.params.uid := by
  rcases step_cases e with ⟨hc, rfl⟩ | ⟨_, e⟩ | ⟨p, _, e⟩ | ⟨_, rfl⟩ | ⟨_, e⟩ | ⟨sym, second, _, rfl⟩
  · exact (stepDone_fixed s).imp_right fun h => ⟨hc, h⟩
  · obtain ⟨_, _, _, _, rfl | rfl⟩ := stepCheck_cases e
    · exact .inl ⟨rfl, rfl⟩
    · exact .inl ⟨rfl, rfl⟩
  · exact .inl (stepRx_effect e).fixed
  · obtain ⟨_, _, hu⟩ := stepCount_frame s
    rw [hu]
    exact .inl ⟨rfl, rfl⟩
  · exact .inl (stepDispatch_fixed e)
  · exact .inl (stepTx_fixed sym second s)

end Sys2Proof.Machine

open Sys2Proof Sys2Proof.Machine

/-- Settles O58: of all steps only the set-up call writes a static frame, and none writes a parameter. -/
theorem staticFramesAndParametersAreReadOnly : Obligations.StaticFramesAndParametersAreReadOnly := by
  intro s u e
  rcases step_fixed e with ⟨hp, hs⟩ | ⟨hc, hi, hp, hs⟩
  · exact ⟨hp, fun hne => absurd hs hne⟩
  · exact ⟨hp, fun _ => ⟨hc, hs, hi⟩⟩
end

section
/-! SUPPORT. Proofs: decoding and encoding agree (30_encoding.md R77, R78, R80). Both sides are compared with `RowMatches`, the
rows of the command map: the decoder answers exactly the row that matches, and a command's encoding matches its own row. -/

namespace Sys2Proof.Machine

variable {i : Instr} {bs : List Byte}

/-! ## From a command to its bytes -/

theorem rowMatches_encode (i : Instr) : RowMatches i (encode i) := by
  cases i with
  | reqa => exact .reqa []
  | wupa => exact .wupa []
  | anticollCl1 => exact .anticollCl1 []
  | anticollCl2 => exact .anticollCl2 []
  | selectCl1 => exact .selectCl1 []
  | selectCl2 => exact .selectCl2 []
  | read block => exact .read block []
  | write block rest => exact .write block rest
  | hlta => exact .hlta []

/-- A command is well formed exactly when its encoding fits the frame buffer (R20, R21). -/
theorem wellFormed_iff_encode_length_le (i : Instr) : i.wellFormed = true ↔ (encode i).length ≤ Config.fbCap := by
  cases i with
  | write block rest => exact decide_eq_true_iff
  | _ => exact iff_of_true rfl (of_decide_eq_true rfl)

/-! ## From a frame to its command -/

/-- Two bytes, the first of them fixed: the frames of READ and WRITE (R80). -/
theorem exists_block_of_beginsWith {b : Byte} (h : (decide (2 ≤ bs.length) && beginsWith [b] bs) = true) :
    ∃ block t, bs = b :: block :: t := by
  rw [Bool.and_eq_true, decide_eq_true_eq, beginsWith, List.isPrefixOf_iff_prefix] at h
  obtain ⟨hl, t, rfl⟩ := h
  obtain ⟨block, t, rfl⟩ := List.exists_cons_of_length_pos (l := t) (by simp at hl; omega)
  exact ⟨block, t, rfl⟩

/-- One test of the decoder that looks at a pattern alone: it takes a frame of its row, and leaves the rest to the later
tests. -/
theorem rowMatches_of_patternTest {j : Instr} {pat : List Byte} {later : Except Reject Instr}
    (hrow : ∀ t, RowMatches j (pat ++ t)) (hlater : later = .ok i → RowMatches i bs)
    (h : (if beginsWith pat bs then .ok j else later) = .ok i) : RowMatches i bs := by
  obtain ⟨hb, hj⟩ | ⟨-, hl⟩ := ite_eq_iff.1 h
  · cases hj
    obtain ⟨t, ht⟩ := List.isPrefixOf_iff_prefix.1 hb
    exact ht ▸ hrow t
  · exact hlater hl

/-- What the decoder answers is the command of a row that matches the frame, and the frame fits the buffer (R21, R171). -/
theorem rowMatches_of_decode (h : decode bs = .ok i) : bs.length ≤ Config.fbCap ∧ RowMatches i bs := by
  unfold decode decodeFrame at h
  obtain ⟨-, h⟩ | ⟨hl, h⟩ := ite_eq_iff.1 h
  · cases h
  obtain ⟨-, h⟩ | ⟨-, h⟩ := ite_eq_iff.1 h
  · cases h
  refine ⟨Nat.not_lt.1 hl, ?_⟩
  revert h
  refine rowMatches_of_patternTest .reqa <| rowMatches_of_patternTest .wupa <|
    rowMatches_of_patternTest .anticollCl1 <| rowMatches_of_patternTest .anticollCl2 <|
    rowMatches_of_patternTest .selectCl1 <| rowMatches_of_patternTest .selectCl2 fun h => ?_
  obtain ⟨hread, hi⟩ | ⟨-, h⟩ := ite_eq_iff.1 h
  · obtain ⟨block, t, rfl⟩ := exists_block_of_beginsWith hread
    cases hi
    exact .read block t
  obtain ⟨hwrite, hi⟩ | ⟨-, h⟩ := ite_eq_iff.1 h
  · obtain ⟨block, t, rfl⟩ := exists_block_of_beginsWith hwrite
    cases hi
    exact .write block t
  refine rowMatches_of_patternTest .hlta (fun h => ?_) h
  split at h <;> cases h

/-- A frame that a command's row matches is the command's encoding and then bytes that no rule looks at (R171). -/
theorem RowMatches.encode_prefix (h : RowMatches i bs) : encode i <+: bs := by
  cases h with
  | write block rest => exact List.prefix_rfl
  | _ => exact ⟨_, rfl⟩

/-! ## Words of the command map -/

theorem bytesOfWord_length (n w : Nat) : (bytesOfWord n w).length = n := by
  induction n generalizing w with
  | zero => rfl
  | succ n ih => rw [bytesOfWord, List.length_cons, ih]

/-- A table word that fits the frame buffer decodes to the command whose row its bytes match: the padding is a part of the
frame like any trailing byte (log 12). -/
theorem decodeTableWord_of_rowMatches {nbits w : Nat} (hn : nbits ≤ 8 * Config.fbCap)
    (h : RowMatches i (tableBytes nbits w)) : decodeTableWord nbits w = some i := by
  have hl : (tableBytes nbits w).length ≤ Config.fbCap := by
    rw [tableBytes, bytesOfWord_length]
    exact Nat.max_le.2 ⟨by decide, Nat.div_le_of_le_mul hn⟩
  rw [decodeTableWord, decode, h.decodeFrame hl]

end Sys2Proof.Machine

open Sys2Proof Sys2Proof.Machine

/-- Settles O1: the encoding of a command matches the command's row, and the decoder answers the row that matches. -/
theorem decodeOfEncodeIsTheInstruction : Obligations.DecodeOfEncodeIsTheInstruction :=
  fun i h => (rowMatches_encode i).decodeFrame ((wellFormed_iff_encode_length_le i).1 h)

/-- Settles O2: the frame matches the row of its command, so the encoding is its beginning and fits where the frame fits. -/
theorem everyCommandFrameBeginsWithItsEncoding : Obligations.EveryCommandFrameBeginsWithItsEncoding := by
  intro bs i h
  obtain ⟨hl, hm⟩ := rowMatches_of_decode h
  have hp : encode i <+: bs := hm.encode_prefix
  refine ⟨(wellFormed_iff_encode_length_le i).2 (hp.length_le.trans hl), hp, fun block rest hi => ?_⟩
  subst hi
  cases hm
  rfl

/-- Settles O3: the bytes of each word match the row of its command. -/
theorem tableWordsDecodeToTheirCommands : Obligations.TableWordsDecodeToTheirCommands :=
  ⟨decodeTableWord_of_rowMatches (by decide) (.reqa _), decodeTableWord_of_rowMatches (by decide) (.wupa _),
    decodeTableWord_of_rowMatches (by decide) (.anticollCl1 _), decodeTableWord_of_rowMatches (by decide) (.selectCl2 _),
    decodeTableWord_of_rowMatches (by decide) (.read _ _), decodeTableWord_of_rowMatches (by decide) (.write _ _),
    decodeTableWord_of_rowMatches (by decide) (.hlta _)⟩
end

section
/-! SUPPORT. Proofs: the CRC unit (40_frame_codecs.md R101 to R104). The shift is linear over xor, so one byte of the CRC is a
table entry and the upper byte of the register, in the shifting form and in the byte-wise form alike. A byte equal to the lower
half of the register therefore only drops that half: the two bytes of its own CRC empty the register. -/

namespace Sys2Proof.Machine

/-! ## The shift is linear -/

theorem crcShift_xor (c d : CrcWord) : crcShift (c ^^^ d) = crcShift c ^^^ crcShift d := by
  simp only [crcShift, BitVec.getLsbD_xor, BitVec.ushiftRight_xor_distrib]
  cases c.getLsbD 0 <;> cases d.getLsbD 0
  case true.true =>
    calc c >>> 1 ^^^ d >>> 1
        = c >>> 1 ^^^ d >>> 1 ^^^ (0x8408 ^^^ 0x8408) := by simp
      _ = c >>> 1 ^^^ 0x8408 ^^^ (d >>> 1 ^^^ 0x8408) := by ac_rfl
  case true.false =>
    show c >>> 1 ^^^ d >>> 1 ^^^ 0x8408 = c >>> 1 ^^^ 0x8408 ^^^ d >>> 1
    ac_rfl
  case false.true => exact BitVec.xor_assoc ..
  case false.false => rfl

theorem crcShift_iterate_xor (n : Nat) (c d : CrcWord) :
    crcShift^[n] (c ^^^ d) = crcShift^[n] c ^^^ crcShift^[n] d := by
  induction n generalizing c d with
  | zero => rfl
  | succ n ih => simp only [Function.iterate_succ_apply, crcShift_xor, ih]

/-- A shift that meets a clear bit keeps the polynomial out: the upper half of the register only moves down. -/
theorem crcShift_highByte_shiftLeft (c : CrcWord) {n : Nat} (hn : n < 8) :
    crcShift (c >>> 8 <<< (n + 1)) = c >>> 8 <<< n := by
  rw [crcShift, if_neg (by simp)]
  ext i hi
  grind

theorem crcShift_iterate_highByte (c : CrcWord) {n : Nat} (hn : n ≤ 8) : crcShift^[n] (c >>> 8 <<< n) = c >>> 8 := by
  induction n with
  | zero => exact BitVec.shiftLeft_zero ..
  | succ n ih => rw [Function.iterate_succ_apply, crcShift_highByte_shiftLeft c hn, ih (Nat.le_of_succ_le hn)]

/-! ## One byte of the CRC -/

/-- The register with a byte added to it, cut into its upper and its lower half. -/
theorem xor_setWidth_eq_halves (c : CrcWord) (b : Byte) :
    c ^^^ b.setWidth 16 = (b ^^^ c.setWidth 8).setWidth 16 ^^^ c >>> 8 <<< 8 := by
  ext i hi
  grind

theorem crcByte_eq_iterate (c : CrcWord) (b : Byte) : crcByte c b = crcShift^[8] (c ^^^ b.setWidth 16) := rfl

/-- The table form of the shifting CRC: the entry of the lower half, and the upper half moved down. -/
theorem crcByte_eq_table (c : CrcWord) (b : Byte) :
    crcByte c b = crcByte 0 (b ^^^ c.setWidth 8) ^^^ c >>> 8 := by
  calc crcByte c b
      = crcShift^[8] ((b ^^^ c.setWidth 8).setWidth 16 ^^^ c >>> 8 <<< 8) := by
        rw [crcByte_eq_iterate, xor_setWidth_eq_halves]
    _ = crcShift^[8] ((b ^^^ c.setWidth 8).setWidth 16) ^^^ c >>> 8 := by
        rw [crcShift_iterate_xor, crcShift_iterate_highByte c le_rfl]
    _ = crcByte 0 (b ^^^ c.setWidth 8) ^^^ c >>> 8 := by simp [crcByte_eq_iterate]

theorem crcByteWise_eq_table (c : CrcWord) (b : Byte) :
    crcByteWise c b = crcByteWise 0 (b ^^^ c.setWidth 8) ^^^ c >>> 8 := by
  have hlow : (0 : CrcWord).setWidth 8 = 0#8 := rfl
  have hhigh : (0 : CrcWord) >>> 8 = 0#16 := rfl
  simp only [crcByteWise, hlow, hhigh, BitVec.xor_zero, BitVec.zero_xor]
  ac_rfl

/-- The 256 entries of the table are the same in both forms. -/
theorem crcByte_zero : ∀ x : Byte, crcByte 0 x = crcByteWise 0 x := by decide

theorem crcByte_eq_crcByteWise (c : CrcWord) (b : Byte) : crcByte c b = crcByteWise c b := by
  rw [crcByte_eq_table, crcByteWise_eq_table, crcByte_zero]

theorem crcByte_lowByte (c : CrcWord) : crcByte c (c.setWidth 8) = c >>> 8 := by
  simp [crcByte_eq_crcByteWise, crcByteWise]

/-! ## A sequence and its trailer -/

/-- The two CRC bytes of a sequence, taken in after it, move the register out byte by byte. -/
theorem crcRun_append_crc (seq : List Byte) : crcRun (seq ++ [(crc16 seq).1, (crc16 seq).2]) = 0 := by
  calc crcRun (seq ++ [(crc16 seq).1, (crc16 seq).2])
      = crcByte (crcByte (crcRun seq) (crc16 seq).1) (crc16 seq).2 := by simp [crcRun]
    _ = crcRun seq >>> 8 >>> 8 := by simp only [crc16, crcByte_lowByte]
    _ = 0 := by rw [← BitVec.shiftRight_add]; exact BitVec.ushiftRight_eq_zero le_rfl

theorem crcOk_append_pair (p : List Byte) (lo hi : Byte) : crcOk (p ++ [lo, hi]) = true ↔ crc16 p = (lo, hi) := by
  simp [crcOk, crcBytes, Prod.ext_iff, @eq_comm _ lo, @eq_comm _ hi]

end Sys2Proof.Machine

open Sys2Proof Sys2Proof.Machine

/-- Settles O17: the trailer is the payload's CRC, and its two bytes move the register out. -/
theorem appendedCrcChecksAndLeavesNoResidue : Obligations.AppendedCrcChecksAndLeavesNoResidue := by
  refine fun seq => ⟨(crcOk_append_pair ..).2 rfl, ?_⟩
  rw [crc16, crcRun_append_crc]
  rfl

/-- Settles O18: both forms are a table entry and the upper half of the register, and the tables agree. -/
theorem crcFormsAgree : Obligations.CrcFormsAgree := crcByte_eq_crcByteWise

/-- Settles O19, by taking the last two bytes off the frame. -/
theorem crcOkComparesTheTrailer : Obligations.CrcOkComparesTheTrailer := by
  intro frame
  obtain rfl | ⟨q, hi, rfl⟩ := frame.eq_nil_or_concat'
  · simp [crcOk]
  obtain rfl | ⟨p, lo, rfl⟩ := q.eq_nil_or_concat'
  · simp [crcOk]
  rw [List.append_assoc, List.singleton_append, crcOk_append_pair]
  simp
end

section
/-! SUPPORT. Proofs: the Miller decoder (41_miller_decoder.md R122 to R135). The position is counted as 18*BYTEPOS + HBITPOS
(R128); a byte is looked at as it will be once it is entered (`opened`), so that an advance changes no byte at all and an edge
sets the one bit of its slot. A frame is then its pauses: the decoder sets the bits of the odd slots among them, and the
reader's code puts a pause into the odd slot of a bit exactly where the bit is 1 (R71). -/

namespace Sys2Proof.Machine

variable {s u : State}

/-! ## Gap classes and masks -/

theorem gapExtra_cases (p : Params) (t : Nat) :
    (t ≤ 5 * p.tBit / 4 → gapExtra p t = 0) ∧
    (5 * p.tBit / 4 < t → t ≤ 7 * p.tBit / 4 → gapExtra p t = 1) ∧
    (7 * p.tBit / 4 < t → gapExtra p t = 2) := by
  unfold gapExtra th1 th2
  refine ⟨fun h => ?_, fun h h' => ?_, fun h => ?_⟩
  · rw [if_neg (by omega), if_neg (by omega)]
  · rw [if_pos h, if_neg (by omega)]
  · rw [if_pos (by omega), if_pos h]

/-- A gap of two to four slots, measured exactly, is in its class and within the deadline (R135). -/
theorem gapExtra_exact {p : Params} {g : Nat} (h8 : 8 ≤ p.tBit) (hev : p.tBit % 2 = 0) (h2 : 2 ≤ g) (h4 : g ≤ 4) :
    gapExtra p (g * p.tBit / 2) + 2 = g ∧ g * p.tBit / 2 ≤ th3 p := by
  obtain ⟨short, medium, long⟩ := gapExtra_cases p (g * p.tBit / 2)
  unfold th3
  obtain rfl | rfl | rfl : g = 2 ∨ g = 3 ∨ g = 4 := by omega
  · exact ⟨by rw [short (by omega)], by omega⟩
  · exact ⟨by rw [medium (by omega) (by omega)], by omega⟩
  · exact ⟨by rw [long (by omega)], by omega⟩

/-- The mask of a slot has bit `k` exactly at slot 2k + 1 (R127). -/
theorem rxMask_getLsbD : ∀ slot < 18, ∀ k < 8, (rxMask slot).getLsbD k = decide (slot = 2 * k + 1) := by decide

/-! ## One step at a point of the decoder -/

theorem step_of_rx {p : RxPoint} (hc : s.ctl = .rx p) : step s = stepRx p s := by
  simp only [step, hc]

theorem rxAfterQuiet_of_edge {t : Nat} (h : s.rxR = .edge t) : rxAfterQuiet s = s := by
  simp only [rxAfterQuiet, h]

theorem rxAfterQuiet_of_quiet (h : s.rxR = .quiet) :
    rxAfterQuiet s = { s with rxC := s.params.rxTimeoutBits, ctl := .rx .start } := by
  simp only [rxAfterQuiet, h]

theorem rxAfterStart_of_edge {t : Nat} (h : s.rxR = .edge t) : rxAfterStart s = rxStartEdge s := by
  simp only [rxAfterStart, h]

theorem rxAfterStart_of_quiet (h : s.rxR = .quiet) : rxAfterStart s = rxStartQuiet s := by
  simp only [rxAfterStart, h]

theorem rxAfterFrame_of_edge {t : Nat} (h : s.rxR = .edge t) : rxAfterFrame s = rxEdge t s := by
  simp only [rxAfterFrame, h]

theorem rxAfterFrame_of_quiet (h : s.rxR = .quiet) : rxAfterFrame s = .next (rxEndFrame s) := by
  simp only [rxAfterFrame, h]

/-- The start edge clears FB[0] and leaves the other bytes (R125). -/
theorem fbRead_rxStartEdge (s : State) (j : Nat) : fbRead (rxStartEdge s) j = if j = 0 then 0x00 else fbRead s j := by
  unfold rxStartEdge
  rw [fbRead_fbWrite]
  simp only [Nat.zero_lt_succ, and_true]
  rfl

/-! ## The position, and a byte as it is once entered -/

/-- The position counted in slots from the first bit of the frame: where the next pause falls if the gap is SHORT (R129). -/
def position (s : State) : Nat := 18 * s.bytePos + s.hbitPos

/-- The byte FB[j] with the clearing of a byte the decoder has still to enter done beforehand (R128). -/
def opened (s : State) (j : Nat) : Byte := if s.bytePos < j then 0x00 else fbRead s j

theorem opened_of_lt {j : Nat} (h : s.bytePos < j) : opened s j = 0x00 := if_pos h

theorem opened_of_le {j : Nat} (h : j ≤ s.bytePos) : opened s j = fbRead s j := if_neg (Nat.not_lt.2 h)

/-- At the start edge every byte is as it will be when entered: clear (R125, R128). -/
theorem opened_rxStartEdge (s : State) (j : Nat) : opened (rxStartEdge s) j = 0x00 := by
  cases j with
  | zero => rw [opened_of_le (Nat.zero_le _), fbRead_rxStartEdge, if_pos rfl]
  | succ j => exact opened_of_lt (Nat.succ_pos j)

/-- From `s` to `u` the position has moved on by `n` slots, and no byte above it was written. -/
structure Moved (n : Nat) (s u : State) : Prop where
  hbitPos : u.hbitPos ≤ 17
  position : position u = position s + n
  above : ∀ j, u.bytePos < j → fbRead u j = fbRead s j

theorem Moved.bytePos_le {n : Nat} (h : Moved n s u) (hh : s.hbitPos ≤ 17) : s.bytePos ≤ u.bytePos := by
  obtain ⟨hu, hp, -⟩ := h
  unfold Machine.position at hp
  omega

theorem Moved.trans {m n : Nat} {v : State} (h : Moved m s v) (h' : Moved n v u) : Moved (m + n) s u where
  hbitPos := h'.hbitPos
  position := by rw [h'.position, h.position, Nat.add_assoc]
  above j hj := (h'.above j hj).trans (h.above j ((h'.bytePos_le h.hbitPos).trans_lt hj))

/-- An advance within the frame buffer moves the position and leaves every byte as it is once entered (R128). -/
theorem advance_moved {n : Nat} (hh : s.hbitPos ≤ 17) (hn : n ≤ 2) (hw : position s + n < 18 * Config.fbCap) :
    ∃ u, advance n s = .next u ∧ Moved n s u ∧ ∀ j, opened u j = opened s j := by
  obtain ⟨u, hu, hh', hp, hb, hfb, -⟩ := advance_within n s hh hn hw
  have hle : s.bytePos ≤ u.bytePos := by omega
  have hread (j : Nat) : fbRead u j = if s.bytePos < j ∧ j ≤ u.bytePos then 0x00 else fbRead s j := by
    by_cases hj : j < 64
    · exact hfb j hj
    · rw [fbRead_of_ge u j (by omega), fbRead_of_ge s j (by omega), ite_self]
  refine ⟨u, hu, ⟨hh', hp, fun j hj => ?_⟩, fun j => ?_⟩
  · rw [hread, if_neg (by omega)]
  · by_cases hj : u.bytePos < j
    · rw [opened_of_lt hj, opened_of_lt (hle.trans_lt hj)]
    · rw [opened_of_le (Nat.not_lt.1 hj), hread]
      exact if_congr (and_iff_left (Nat.not_lt.1 hj)) rfl rfl

/-- ORing the mask changes the byte at BYTEPOS (R129). -/
theorem fbRead_orMask (h : s.bytePos < 64) (j : Nat) :
    fbRead (orMask s) j = fbRead s j ||| if j = s.bytePos then rxMask s.hbitPos else 0x00 := by
  unfold orMask
  rw [fbRead_fbWrite]
  by_cases hj : j = s.bytePos
  · rw [if_pos ⟨hj, h⟩, if_pos hj, hj]
  · rw [if_neg (fun hc => hj hc.1), if_neg hj]
    exact BitVec.or_zero.symm

theorem opened_orMask (h : s.bytePos < 64) (j : Nat) :
    opened (orMask s) j = opened s j ||| if j = s.bytePos then rxMask s.hbitPos else 0x00 := by
  by_cases hj : s.bytePos < j
  · rw [opened_of_lt (s := orMask s) hj, opened_of_lt hj, if_neg (by omega)]
    rfl
  · rw [opened_of_le (s := orMask s) (Nat.not_lt.1 hj), opened_of_le (Nat.not_lt.1 hj), fbRead_orMask h]

/-! ## One edge -/

theorem rxEdge_of_advance {t : Nat} {v : State}
    (h : advance (gapExtra s.params t) { s with rxT := t, rxE := gapExtra s.params t } = .next v) :
    rxEdge t s = advance 2 (orMask v) := by
  simp only [rxEdge, h]

/-- An edge that stays within the frame buffer moves the position by its gap and ORs its mask into the byte its slot lies in
(R129). -/
theorem rxEdge_moved {t : Nat} (hh : s.hbitPos ≤ 17) (hw : position s + gapExtra s.params t + 2 < 18 * Config.fbCap) :
    ∃ u, rxEdge t s = .next u ∧ Moved (gapExtra s.params t + 2) s u ∧
      ∀ j, opened u j = opened s j |||
        if j = (position s + gapExtra s.params t) / 18 then rxMask ((position s + gapExtra s.params t) % 18) else 0x00 := by
  obtain ⟨v, hv, mv, ov⟩ := advance_moved (s := { s with rxT := t, rxE := gapExtra s.params t }) hh
    (gapExtra_le s.params t) (Nat.lt_of_le_of_lt (Nat.le_add_right _ 2) hw)
  have hpos : 18 * v.bytePos + v.hbitPos = position s + gapExtra s.params t := mv.position
  have hh' := mv.hbitPos
  have hb : v.bytePos < 64 := by simp only [Config.fbCap] at hw; omega
  obtain ⟨u, hu, mu, ou⟩ := advance_moved (s := orMask v) hh' le_rfl
    (by show 18 * v.bytePos + v.hbitPos + 2 < _; omega)
  refine ⟨u, (rxEdge_of_advance hv).trans hu, ⟨mu.hbitPos, ?_, fun j hj => ?_⟩, fun j => ?_⟩
  · rw [mu.position, ← Nat.add_assoc, ← hpos]
    rfl
  · have hvj : v.bytePos < j := (mu.bytePos_le hh').trans_lt hj
    rw [mu.above j hj, fbRead_orMask hb, if_neg (by omega), mv.above j hvj]
    exact BitVec.or_zero
  · rw [ou, opened_orMask hb, ov, ← hpos, show (18 * v.bytePos + v.hbitPos) / 18 = v.bytePos by omega,
      show (18 * v.bytePos + v.hbitPos) % 18 = v.hbitPos by omega]
    rfl

/-- An edge that would leave the frame buffer is refused (R134). -/
theorem rxEdge_beyond {t : Nat} (hh : s.hbitPos ≤ 17) (hb : s.bytePos < 64)
    (hw : 18 * Config.fbCap ≤ position s + gapExtra s.params t + 2) : rxEdge t s = .refused .rxOverrun := by
  by_cases h1 : position s + gapExtra s.params t < 18 * Config.fbCap
  · obtain ⟨v, hv, mv, -⟩ := advance_moved (s := { s with rxT := t, rxE := gapExtra s.params t }) hh
      (gapExtra_le s.params t) h1
    have hpos : 18 * v.bytePos + v.hbitPos = position s + gapExtra s.params t := mv.position
    simp only [Config.fbCap] at h1 hw
    rw [rxEdge_of_advance hv]
    exact advance_beyond 2 (orMask v) (by show v.bytePos < 64; omega)
      (by show _ ≤ 18 * v.bytePos + v.hbitPos + 2; omega) mv.hbitPos le_rfl
  · have := advance_beyond (gapExtra s.params t) { s with rxT := t, rxE := gapExtra s.params t } hb (Nat.not_lt.1 h1) hh
      (gapExtra_le s.params t)
    simp only [rxEdge, this]

/-- The bits of a byte after an edge: the slot sets its bit, if it is the second half of a data bit. -/
theorem getLsbD_or_rxMask (b : Byte) {slot j k : Nat} (hk : k < 8) :
    (b ||| if j = slot / 18 then rxMask (slot % 18) else 0x00).getLsbD k = true ↔
      b.getLsbD k = true ∨ 18 * j + 2 * k + 1 = slot := by
  rw [BitVec.getLsbD_or, Bool.or_eq_true]
  refine or_congr Iff.rfl ?_
  by_cases hj : j = slot / 18
  · rw [if_pos hj, rxMask_getLsbD _ (by omega) k hk, decide_eq_true_iff]
    omega
  · rw [if_neg hj]
    exact iff_of_false (by simp) (by omega)

/-! ## What a step of the decoder writes -/

theorem RxEffect.frame {p : RxPoint} (e : RxEffect s p u) :
    u = { s with
      fb := u.fb, rxBytes := u.rxBytes, hbitPos := u.hbitPos, bytePos := u.bytePos, fdtSel := u.fdtSel, rxT := u.rxT,
      rxE := u.rxE, rxC := u.rxC, rxR := u.rxR, ctl := u.ctl, portDelay := u.portDelay, edgeIn := u.edgeIn,
      freeCount := u.freeCount, portLog := u.portLog } := by
  obtain ⟨_, _, _, _, hbit⟩ := btpWaitEdge_frame s.params.tBit s
  obtain ⟨_, _, _, _, hgap⟩ := btpWaitEdge_frame (th3 s.params) s
  cases e with
  | drained => rfl
  | discarded => rw [hbit]
  | quiet => rw [hbit]
  | startEdge => rw [hbit]; rfl
  | startQuiet =>
    rcases rxStartQuiet_cases (btpWaitEdge s.params.tBit s) with ⟨_, h⟩ | ⟨_, h⟩
    · rw [h, hbit]
    · rw [h, hbit]
  | edge t _ _ h =>
    rw [hgap] at h
    rcases rxEdge_frame t _ with ⟨_, _, _, e⟩ | e
    · cases e.symm.trans h; rfl
    · cases e.symm.trans h
  | ended => rw [hgap]; rfl

/-! ## Runs -/

theorem coreRun_succ_iff {M : Host.Core} {k : Nat} {s u : M.State} :
    M.run (k + 1) s = .next u ↔ ∃ v, M.step s = .next v ∧ M.run k v = .next u := by
  rw [Host.Core.run]
  cases M.step s with
  | next v => simp
  | fault f => simp
  | refused r => simp

/-- `k` steps lead from `s` to `u`. -/
abbrev Runs (k : Nat) (s u : State) : Prop := Host.Core.run Sys2Proof.core k s = .next u

theorem runs_succ_iff {k : Nat} : Runs (k + 1) s u ↔ ∃ v, step s = .next v ∧ Runs k v u := coreRun_succ_iff

theorem Runs.of_step (h : step s = .next u) : Runs 1 s u := runs_succ_iff.2 ⟨u, h, rfl⟩

theorem Runs.trans {m n : Nat} {v : State} (r : Runs m s v) (r' : Runs n v u) : Runs (m + n) s u := by
  induction m generalizing s with
  | zero =>
    cases r
    rwa [Nat.zero_add]
  | succ m ih =>
    obtain ⟨w, hstep, rest⟩ := runs_succ_iff.1 r
    rw [Nat.succ_add]
    exact runs_succ_iff.2 ⟨w, hstep, ih rest⟩

/-! ## A sequence of gaps -/

/-- The slots of the pauses that follow at these gaps, from the position `p`. -/
def pauseSlots : Nat → List Nat → List Nat
  | _, [] => []
  | p, g :: gs => (p + g - 2) :: pauseSlots (p + g) gs

/-- The port's answers to these gaps, measured exactly (R135). -/
def edgesOf (p : Params) (gs : List Nat) : List PortAnswer := gs.map (fun g => PortAnswer.edge (g * p.tBit / 2))

/-- The decoder has heard the gaps `gs` from `s` on and stands in the frame at `u`, `q` still to come: the bits of the odd
slots among the pauses are set. -/
structure Heard (gs : List Nat) (q : List PortAnswer) (s u : State) : Prop where
  run : Runs gs.length s u
  ctl : u.ctl = .rx .frame
  params : u.params = s.params
  edgeIn : u.edgeIn = q
  moved : Moved gs.sum s u
  bits : ∀ j k, k < 8 → ((opened u j).getLsbD k = true ↔
    (opened s j).getLsbD k = true ∨ 18 * j + 2 * k + 1 ∈ pauseSlots (position s) gs)

theorem heard_nil {q : List PortAnswer} (hc : s.ctl = .rx .frame) (hh : s.hbitPos ≤ 17) (he : s.edgeIn = q) :
    Heard [] q s s :=
  ⟨rfl, hc, rfl, he, ⟨hh, rfl, fun _ _ => rfl⟩, fun _ _ _ => by simp [pauseSlots]⟩

/-- One gap, measured exactly. -/
theorem exists_heard_one {g : Nat} {q : List PortAnswer} (hc : s.ctl = .rx .frame) (hh : s.hbitPos ≤ 17)
    (h8 : 8 ≤ s.params.tBit) (hev : s.params.tBit % 2 = 0) (h2 : 2 ≤ g) (h4 : g ≤ 4)
    (hw : position s + g < 18 * Config.fbCap) (he : s.edgeIn = .edge (g * s.params.tBit / 2) :: q) :
    ∃ u, Heard [g] q s u := by
  obtain ⟨hx, ht⟩ := gapExtra_exact h8 hev h2 h4
  have hstep := step_of_rx hc
  rw [stepRx, btpWaitEdge_edge _ _ _ _ he ht, rxAfterFrame_of_edge rfl] at hstep
  obtain ⟨u, hu, mu, ou⟩ := rxEdge_moved (t := g * s.params.tBit / 2)
    (s := logPort (.waitEdge (th3 s.params) (.edge (g * s.params.tBit / 2)))
      { s with rxR := .edge (g * s.params.tBit / 2), edgeIn := q }) hh
    (by show position s + gapExtra s.params _ + 2 < _; omega)
  have hfixed : u.ctl = s.ctl ∧ u.params = s.params ∧ u.edgeIn = q := by
    rcases rxEdge_frame _ _ with ⟨_, _, _, e⟩ | e
    · cases e.symm.trans hu; exact ⟨rfl, rfl, rfl⟩
    · cases e.symm.trans hu
  obtain ⟨hctl, hparams, hedge⟩ := hfixed
  refine ⟨u, .of_step (hstep.trans hu), hctl.trans hc, hparams, hedge, ?_, fun j k hk => ?_⟩
  · rw [List.sum_singleton, ← hx]
    exact ⟨mu.hbitPos, mu.position, mu.above⟩
  · have hslot : position s + g - 2 = position s + gapExtra s.params (g * s.params.tBit / 2) := by omega
    rw [ou, getLsbD_or_rxMask _ hk, pauseSlots, pauseSlots, List.mem_singleton, hslot]
    rfl

theorem Heard.cons {g : Nat} {gs : List Nat} {q q' : List PortAnswer} {v : State} (h : Heard [g] q s v)
    (h' : Heard gs q' v u) : Heard (g :: gs) q' s u where
  run := by simpa [Nat.add_comm] using h.run.trans h'.run
  ctl := h'.ctl
  params := h'.params.trans h.params
  edgeIn := h'.edgeIn
  moved := by simpa using h.moved.trans h'.moved
  bits j k hk := by
    rw [h'.bits j k hk, h.bits j k hk, h.moved.position]
    simp [pauseSlots, or_assoc]

/-- A sequence of gaps of two to four slots that ends within the frame buffer is heard. -/
theorem exists_heard {gs : List Nat} {q : List PortAnswer} (hc : s.ctl = .rx .frame) (hh : s.hbitPos ≤ 17)
    (h8 : 8 ≤ s.params.tBit) (hev : s.params.tBit % 2 = 0) (hg : ∀ g ∈ gs, 2 ≤ g ∧ g ≤ 4)
    (hw : position s + gs.sum < 18 * Config.fbCap) (he : s.edgeIn = edgesOf s.params gs ++ q) :
    ∃ u, Heard gs q s u := by
  induction gs generalizing s with
  | nil => exact ⟨s, heard_nil hc hh he⟩
  | cons g gs ih =>
    rw [List.sum_cons] at hw
    obtain ⟨hg1, hgs⟩ := List.forall_mem_cons.1 hg
    obtain ⟨v, hv⟩ := exists_heard_one hc hh h8 hev hg1.1 hg1.2 (by omega) he
    have hp := hv.moved.position
    rw [List.sum_singleton] at hp
    obtain ⟨u, hu⟩ := ih hv.ctl hv.moved.hbitPos (by rwa [hv.params]) (by rwa [hv.params]) hgs (by omega)
      (by rw [hv.params]; exact hv.edgeIn)
    exact ⟨u, hv.cons hu⟩

/-! ## The reader's code -/

/-- What `since` is at the end of a bit: one slot after a 1, two after a 0 with its pause, three after a 0 that follows a 1 and
has none (R71). -/
inductive SinceOk : Nat → Bool → Prop
  | afterOne : SinceOk 1 true
  | afterPause : SinceOk 2 false
  | afterNoPause : SinceOk 3 false

/-- Consecutive pauses are two to four slots apart (R71). -/
theorem millerGaps_range {since : Nat} {prevOne : Bool} {bits : List Bool} (h : SinceOk since prevOne) :
    ∀ g ∈ millerGaps since prevOne bits, 2 ≤ g ∧ g ≤ 4 := by
  induction bits generalizing since prevOne with
  | nil => cases h <;> decide
  | cons b bits ih =>
    cases b with
    | true => exact List.forall_mem_cons.2 ⟨by cases h <;> decide, ih .afterOne⟩
    | false =>
      cases h with
      | afterOne => exact ih .afterNoPause
      | afterPause => exact List.forall_mem_cons.2 ⟨by decide, ih .afterPause⟩
      | afterNoPause => exact List.forall_mem_cons.2 ⟨by decide, ih .afterPause⟩

/-- The last pause of a frame is in the second half of its last bit if that is a 1, else right after it (R136(f)). -/
theorem millerGaps_sum {since : Nat} {prevOne : Bool} {bits : List Bool} (h : SinceOk since prevOne) :
    (millerGaps since prevOne bits).sum + 2 =
      since + 2 * bits.length + (if bits.getLastD prevOne then 1 else 2) := by
  induction bits generalizing since prevOne with
  | nil => cases h <;> rfl
  | cons b bits ih =>
    rw [List.getLastD_cons, List.length_cons]
    cases b with
    | true =>
      have rest := ih .afterOne
      rw [millerGaps, List.sum_cons]
      omega
    | false =>
      cases h with
      | afterOne =>
        have rest : (millerGaps (1 + 2) false bits).sum + 2 = _ := ih .afterNoPause
        rw [millerGaps, if_pos rfl]
        omega
      | _ =>
        have rest := ih .afterPause
        rw [millerGaps, if_neg Bool.false_ne_true, List.sum_cons]
        omega

/-- The odd slots among the pauses are the second halves of the bits that are 1; `i` is the index of the first bit. -/
theorem mem_pauseSlots_millerGaps {p since i : Nat} {prevOne : Bool} {bits : List Bool} (h : p + since = 2 * i + 2)
    (n : Nat) : 2 * n + 1 ∈ pauseSlots p (millerGaps since prevOne bits) ↔ ∃ k, n = i + k ∧ bits[k]? = some true := by
  induction bits generalizing p since i prevOne with
  | nil =>
    cases prevOne with
    | true => simp [millerGaps, pauseSlots]
    | false =>
      refine iff_of_false (fun hm => ?_) (by simp)
      have hslot : 2 * n + 1 = p + since - 2 := List.mem_singleton.1 hm
      omega
  | cons b bits ih =>
    rw [← Nat.or_exists_add_one]
    simp only [List.getElem?_cons_zero, List.getElem?_cons_succ, ← Nat.add_assoc, Nat.add_right_comm i _ 1]
    cases b with
    | true =>
      rw [millerGaps, pauseSlots, List.mem_cons, ih (i := i + 1) (by omega), and_iff_left rfl]
      exact or_congr (by omega) Iff.rfl
    | false =>
      have hzero : ¬ (n = i + 0 ∧ some false = some true) := by simp
      cases prevOne with
      | true =>
        rw [millerGaps, if_pos rfl, ih (i := i + 1) (by omega), or_iff_right hzero]
      | false =>
        rw [millerGaps, if_neg Bool.false_ne_true, pauseSlots, List.mem_cons, ih (i := i + 1) (by omega)]
        exact or_congr (iff_of_false (by omega) hzero) Iff.rfl

/-- A whole frame, from position 0 on: bit `n` is a 1 exactly where slot 2n + 1 has a pause. -/
theorem mem_pauseSlots_readerGaps (bits : List Bool) (n : Nat) :
    2 * n + 1 ∈ pauseSlots 0 (readerGaps bits) ↔ bits.getD n false = true := by
  rw [readerGaps, mem_pauseSlots_millerGaps (i := 0) rfl, List.getD_eq_getElem?_getD]
  simp only [Nat.zero_add, exists_eq_left']
  rcases bits[n]? with _ | b
  · simp
  · simp

/-! ## A whole frame -/

/-- From the wait for the start edge through the frame to the count of RETRY: what the decoder has made of these gaps. -/
theorem exists_decoded {gs : List Nat} {start : Nat} {q : List PortAnswer} (hc : s.ctl = .rx .start)
    (hs : start ≤ s.params.tBit) (h8 : 8 ≤ s.params.tBit) (hev : s.params.tBit % 2 = 0)
    (hg : ∀ g ∈ gs, 2 ≤ g ∧ g ≤ 4) (hw : gs.sum < 18 * Config.fbCap)
    (he : s.edgeIn = gapTrace s.params.tBit start gs ++ q) :
    ∃ u, Runs (gs.length + 2) s u ∧ u.ctl = .count ∧ u.edgeIn = q ∧ position u = gs.sum ∧ u.hbitPos ≤ 17 ∧
      (∀ j k, j ≤ u.bytePos → k < 8 → ((fbRead u j).getLsbD k = true ↔ 18 * j + 2 * k + 1 ∈ pauseSlots 0 gs)) ∧
      (∀ j, u.bytePos < j → fbRead u j = fbRead s j) ∧
      u.fdtSel = fdtSelect u.hbitPos ∧ u.rxBytes = byteCount u.bytePos u.hbitPos := by
  have he' : s.edgeIn = .edge start :: (edgesOf s.params gs ++ .quiet :: q) := by
    simpa [gapTrace, edgesOf] using he
  have first := step_of_rx hc
  rw [stepRx, btpWaitEdge_edge _ _ _ _ he' hs, rxAfterStart_of_edge rfl] at first
  generalize hport : logPort _ _ = w at first
  have hkept : w.params = s.params ∧ w.edgeIn = edgesOf s.params gs ++ .quiet :: q ∧ w.fb = s.fb := by
    rw [← hport]; exact ⟨rfl, rfl, rfl⟩
  obtain ⟨hparams, hedge, hfb⟩ := hkept
  obtain ⟨v, hv⟩ := exists_heard (s := rxStartEdge w) (gs := gs) (q := .quiet :: q) rfl (Nat.zero_le _)
    (by show 8 ≤ w.params.tBit; rwa [hparams]) (by show w.params.tBit % 2 = 0; rwa [hparams]) hg
    (by show 0 + _ < _; omega) (by show w.edgeIn = edgesOf w.params gs ++ _; rw [hparams, hedge])
  have last := step_of_rx hv.ctl
  rw [stepRx, btpWaitEdge_quiet _ _ _ hv.edgeIn, rxAfterFrame_of_quiet rfl] at last
  have hrun := ((Runs.of_step first).trans hv.run).trans (.of_step last)
  rw [show 1 + gs.length + 1 = gs.length + 2 by omega] at hrun
  refine ⟨_, hrun, rfl, rfl, ?_, hv.moved.hbitPos, fun j k hj hk => ?_, fun j hj => ?_, rfl, rfl⟩
  · exact hv.moved.position.trans (Nat.zero_add _)
  · show (fbRead v j).getLsbD k = true ↔ _
    rw [← opened_of_le (s := v) hj, hv.bits j k hk, opened_rxStartEdge]
    exact or_iff_right (by simp)
  · have hj0 : j ≠ 0 := by rintro rfl; exact Nat.not_lt_zero _ hj
    refine (hv.moved.above j hj).trans ?_
    rw [fbRead_rxStartEdge, if_neg hj0, fbRead, hfb]
    rfl

/-! ## Bytes out of bits -/

/-- The received frame is these bytes when it is as long and its bits are theirs. -/
theorem received_eq_of_bits {bs : List Byte} (hn : s.rxBytes = bs.length) (hl : bs.length ≤ 64)
    (hb : ∀ j k, j < bs.length → k < 8 → (fbRead s j).getLsbD k = (bs.getD j 0).getLsbD k) : received s = bs := by
  have hr : (received s).length = bs.length := (received_length s (hn ▸ hl)).trans hn
  refine List.ext_getElem hr fun j h1 h2 => BitVec.eq_of_getLsbD_eq fun k hk => ?_
  have hbyte := hb j k h2 hk
  rw [← received_getD s j (hn ▸ h2)] at hbyte
  rwa [List.getD_eq_getElem _ _ h1, List.getD_eq_getElem _ _ h2] at hbyte

theorem bitsOf_length (b : Byte) : (bitsOf b).length = 8 := rfl

theorem bitsOf_getD (b : Byte) : ∀ k < 8, (bitsOf b).getD k false = b.getLsbD k := by
  intro k hk
  interval_cases k <;> rfl

theorem characterBits_cons (c : Byte × Bool) (cs : List (Byte × Bool)) :
    characterBits (c :: cs) = bitsOf c.1 ++ c.2 :: characterBits cs := by
  simp [characterBits]

theorem characterBits_length (cs : List (Byte × Bool)) : (characterBits cs).length = 9 * cs.length := by
  induction cs with
  | nil => rfl
  | cons c cs ih =>
    rw [characterBits_cons, List.length_append, List.length_cons, ih, bitsOf_length, List.length_cons]
    omega

/-- Bit 9j + k of the characters is data bit `k` of character `j` (R73). -/
theorem characterBits_getD {cs : List (Byte × Bool)} {j k : Nat} (hj : j < cs.length) (hk : k < 8) :
    (characterBits cs).getD (9 * j + k) false = ((cs.map Prod.fst).getD j 0).getLsbD k := by
  induction cs generalizing j with
  | nil => exact absurd hj (Nat.not_lt_zero _)
  | cons c cs ih =>
    rw [characterBits_cons]
    cases j with
    | zero =>
      rw [List.getD_append _ _ _ _ (by rw [bitsOf_length]; omega), Nat.mul_zero, Nat.zero_add]
      exact bitsOf_getD c.1 k hk
    | succ j =>
      rw [List.getD_append_right _ _ _ _ (by rw [bitsOf_length]; omega), bitsOf_length,
        show 9 * (j + 1) + k - 8 = 9 * j + k + 1 by omega, List.getD_cons_succ, ih (Nat.lt_of_succ_lt_succ hj)]
      rfl

/-- Bit `k` of a short frame is bit `k` of its value, and bit 7 is not there (R74). -/
theorem shortBits_getD (b : Byte) : ∀ k < 8, (shortBits b).getD k false = (b &&& 0x7F).getLsbD k := by
  intro k hk
  rw [BitVec.getLsbD_and]
  interval_cases k <;> simp [shortBits, bitsOf]

end Sys2Proof.Machine

open Sys2Proof Sys2Proof.Machine

/-- Settles O33: the decoder sets the bits of the odd slots among the pauses, and those are the bits that are 1. -/
theorem millerFramesDecodeToTheirBits : Obligations.MillerFramesDecodeToTheirBits := by
  intro s bits start q _ hlen h8 hev hc hs he
  have hsum := millerGaps_sum (bits := bits) .afterPause
  rw [← readerGaps] at hsum
  have hsum' : (readerGaps bits).sum = 2 * bits.length + if bits.getLastD false then 1 else 2 := by omega
  have hw : (readerGaps bits).sum < 18 * Config.fbCap := by
    rw [hsum', Config.fbCap]
    split <;> omega
  obtain ⟨u, hrun, hctl, hedge, hpos, hh, hbits, habove, hsel, hcount⟩ :=
    exists_decoded hc hs h8 hev (gs := readerGaps bits) (millerGaps_range .afterPause) hw he
  refine ⟨u, hrun, hctl, hedge, hpos.trans hsum', hh, fun j k hj hk => ?_, habove, ?_, hcount⟩
  · have hslot : 2 * (9 * j + k) + 1 = 18 * j + 2 * k + 1 := by omega
    rw [Bool.eq_iff_iff, hbits j k hj hk, ← mem_pauseSlots_readerGaps, hslot]
  · have hpar : 18 * u.bytePos + u.hbitPos = _ := hpos.trans hsum'
    rw [hsel, fdtSelect]
    cases hl : bits.getLastD false with
    | true => rw [hl, if_pos rfl] at hpar; rw [beq_iff_eq]; omega
    | false => rw [hl, if_neg (by simp)] at hpar; rw [beq_eq_false_iff_ne]; omega

/-- Settles O34: of the bits of n characters the data bits are those of the n bytes, and the count is n. -/
theorem standardFramesDecodeToTheirBytes : Obligations.StandardFramesDecodeToTheirBytes := by
  intro s cs start q hne hlen h8 hev hc hs he
  have hbl := characterBits_length cs
  have hpos : 0 < cs.length := List.length_pos_of_ne_nil hne
  obtain ⟨u, hrun, hctl, -, hp, hh, hbits, -, -, hcount⟩ := millerFramesDecodeToTheirBits s (characterBits cs) start q
    (List.ne_nil_of_length_pos (by omega)) (by omega) h8 hev hc hs he
  have hlast : u.bytePos = cs.length ∧ u.hbitPos ≤ 2 := by
    split at hp <;> omega
  obtain ⟨hb, hh2⟩ := hlast
  have hn : u.rxBytes = cs.length := by rw [hcount, hb, if_neg (by omega), Nat.add_zero]
  refine ⟨u, hrun, hctl, hn, received_eq_of_bits (by rw [hn, List.length_map]) (by rw [List.length_map]; omega)
    fun j k hj hk => ?_⟩
  rw [List.length_map] at hj
  rw [hbits j k (by omega) hk, characterBits_getD hj hk]

/-- Settles O35: seven bits end past slot 7 of the first character and leave its bit 7 clear. -/
theorem shortFramesDecodeToOneByte : Obligations.ShortFramesDecodeToOneByte := by
  intro s b start q h8 hev hc hs he
  have hbl : (shortBits b).length = 7 := rfl
  obtain ⟨u, hrun, hctl, -, hp, hh, hbits, -, -, hcount⟩ := millerFramesDecodeToTheirBits s (shortBits b) start q
    (List.ne_nil_of_length_pos (by omega)) (by omega) h8 hev hc hs he
  have hlast : u.bytePos = 0 ∧ 7 < u.hbitPos := by
    rw [hbl] at hp
    split at hp <;> omega
  obtain ⟨hb, hh7⟩ := hlast
  have hn : u.rxBytes = 1 := by rw [hcount, hb, if_pos hh7]
  refine ⟨u, hrun, hctl, hn, received_eq_of_bits hn (by simp) fun j k hj hk => ?_⟩
  obtain rfl : j = 0 := by simpa using hj
  rw [hbits 0 k (Nat.zero_le _) hk, Nat.mul_zero, Nat.zero_add, shortBits_getD b k hk]
  rfl

/-- Settles O29: a byte up to the new position is as it is once entered, with the mask of the slot; one above is kept. -/
theorem edgeAdvancesByItsGapAndSetsItsSlot : Obligations.EdgeAdvancesByItsGapAndSetsItsSlot := by
  intro s t hh hw
  obtain ⟨u, hu, mu, ou⟩ := rxEdge_moved (t := t) hh hw
  have hpos : 18 * u.bytePos + u.hbitPos = 18 * s.bytePos + s.hbitPos + gapExtra s.params t + 2 := mu.position
  have hh' := mu.hbitPos
  have he := gapExtra_le s.params t
  refine ⟨u, hu, hh', hpos, fun j _ => ?_, ?_⟩
  · by_cases hj : u.bytePos < j
    · rw [mu.above j hj]
      simp only
      rw [if_neg (by omega), if_neg (by omega)]
    · have hopened := ou j
      rw [opened_of_le (Nat.not_lt.1 hj)] at hopened
      rw [hopened, position]
      simp only
      by_cases hslot : j = (18 * s.bytePos + s.hbitPos + gapExtra s.params t) / 18
      · rw [if_pos hslot, if_pos hslot, opened]
      · rw [if_neg hslot, if_neg hslot]
        by_cases hentered : s.bytePos < j
        · rw [opened_of_lt hentered, if_pos (by omega)]
          rfl
        · rw [opened_of_le (Nat.not_lt.1 hentered), if_neg (by omega)]
          exact BitVec.or_zero
  · rcases rxEdge_frame t s with ⟨_, _, _, e⟩ | e
    · cases e.symm.trans hu; rfl
    · cases e.symm.trans hu

/-- Settles O30: an edge moves on within the frame buffer, or is refused. -/
theorem overrunIsRefusedExactlyAtTheCapacity : Obligations.OverrunIsRefusedExactlyAtTheCapacity := by
  refine fun s t hh hb => ⟨fun h => Nat.not_lt.1 fun hw => ?_, rxEdge_beyond hh hb⟩
  obtain ⟨u, hu, -⟩ := rxEdge_moved (t := t) hh hw
  cases h.symm.trans hu

/-- Settles O32, by the cases of a decoder step. -/
theorem decoderWritesOnlyItsRegisters : Obligations.DecoderWritesOnlyItsRegisters := by
  intro s u p hc e
  rw [step_of_rx hc] at e
  exact (stepRx_effect e).frame

/-- Settles O25. -/
theorem gapClassesAreCutAtTheThresholds : Obligations.GapClassesAreCutAtTheThresholds := gapExtra_cases

/-- Settles O26: the table, entry by entry. -/
theorem maskTableHoldsTheDataBits : Obligations.MaskTableHoldsTheDataBits := by
  unfold Obligations.MaskTableHoldsTheDataBits
  decide

/-- Settles O27, by the port's answer in the wait for quiet. -/
theorem decoderDrainsThenWaitsForQuiet : Obligations.DecoderDrainsThenWaitsForQuiet := by
  refine fun s => ⟨fun hc => step_of_rx hc, fun w hc hw => ?_⟩
  have hstep := step_of_rx hc
  rw [stepRx, ← hw] at hstep
  refine ⟨fun t ht => ?_, fun hq => ?_⟩
  · rw [hstep, rxAfterQuiet_of_edge ht]
  · rw [hstep, rxAfterQuiet_of_quiet hq, hw, btpWaitEdge_params]

/-- Settles O28, by the port's answer in the wait for the start edge. -/
theorem startEdgeOrTimeoutEndsTheWait : Obligations.StartEdgeOrTimeoutEndsTheWait := by
  intro s w hc hw
  obtain ⟨r, e, n, l, hframe⟩ := btpWaitEdge_frame s.params.tBit s
  have hstep := step_of_rx hc
  rw [stepRx, ← hw] at hstep
  rw [← hw] at hframe
  have hfb (i : Nat) : fbRead w i = fbRead s i := by rw [hframe]; rfl
  have hrxC : w.rxC = s.rxC := by rw [hframe]
  refine ⟨fun t ht => ⟨rxStartEdge w, ?_, ?_, fun i hi => ?_, rfl⟩, fun hq h2 => ?_, fun hq h1 => ?_, ?_⟩
  · rw [hstep, rxAfterStart_of_edge ht]
  · rw [fbRead_rxStartEdge, if_pos rfl]
  · rw [fbRead_rxStartEdge, if_neg (by omega), hfb]
  · rw [hstep, rxAfterStart_of_quiet hq]
    rcases rxStartQuiet_cases w with ⟨h0, _⟩ | ⟨_, h⟩
    · omega
    · rw [h, hrxC]
  · rw [hstep, rxAfterStart_of_quiet hq]
    rcases rxStartQuiet_cases w with ⟨_, h⟩ | ⟨h0, _⟩
    · rw [h, hrxC, h1]
    · omega
  · rw [hframe]
    exact ⟨rfl, rfl, rfl, rfl, rfl⟩

/-- Settles O31, by the port's answer inside the frame. -/
theorem quietEndsTheFrame : Obligations.QuietEndsTheFrame := by
  intro s w hc hw
  obtain ⟨r, e, n, l, hframe⟩ := btpWaitEdge_frame (th3 s.params) s
  have hstep := step_of_rx hc
  rw [stepRx, th3, ← hw] at hstep
  rw [th3, ← hw] at hframe
  have hhbit : w.hbitPos = s.hbitPos := by rw [hframe]
  have hbyte : w.bytePos = s.bytePos := by rw [hframe]
  refine ⟨fun t ht => ⟨edge_le_of_btpWaitEdge (hw ▸ ht), ?_⟩, fun hq => ?_⟩
  · rw [hstep, rxAfterFrame_of_edge ht]
  · rw [hstep, rxAfterFrame_of_quiet hq, ← hhbit, ← hbyte]
    rfl
end

section
/-! SUPPORT. Proofs: the slots of the Manchester encoder (42_manchester_encoder.md R154 to R161) as a sequence. A frame is its
bits, data and parity, behind the start symbol and before the two slots of the end, each bit as its pair of slots; so length,
pairs and recovery are facts about the pairs of any bit sequence. Under the adapter of R161(d) the falling transitions of such
pairs are the pauses that modified Miller code makes for the same bits (R71), so that the decoder gives the bytes back. -/

namespace Sys2Proof.Machine

/-! ## The slots of a bit sequence -/

theorem slotsOfBits_length (bits : List Bool) : (bits.flatMap slotsOfBit).length = 2 * bits.length := by
  induction bits with
  | nil => rfl
  | cons b bits ih =>
    rw [List.flatMap_cons, List.length_append, ih, List.length_cons, Nat.mul_succ, Nat.add_comm]
    rfl

/-- The two slots of bit `j` are its state and the opposite, whatever follows the sequence (R155). -/
theorem slotsOfBits_getD {bits : List Bool} {j : Nat} (hj : j < bits.length) (tail : List Bool) :
    (bits.flatMap slotsOfBit ++ tail).getD (2 * j) false = bits.getD j false ∧
      (bits.flatMap slotsOfBit ++ tail).getD (2 * j + 1) false = !bits.getD j false := by
  induction bits generalizing j with
  | nil => exact absurd hj (Nat.not_lt_zero j)
  | cons b bits ih =>
    cases j with
    | zero => exact ⟨rfl, rfl⟩
    | succ j => exact ih (Nat.lt_of_succ_lt_succ hj)

/-! ## The slots of a byte and of a frame -/

/-- The characters of a frame of these bytes: each byte with its parity bit (R73, R156). -/
def withParity (seed : Bool) (bs : List Byte) : List (Byte × Bool) := bs.map (fun b => (b, parityBit seed b))

theorem withParity_cons (seed : Bool) (b : Byte) (bs : List Byte) :
    withParity seed (b :: bs) = (b, parityBit seed b) :: withParity seed bs := rfl

@[simp] theorem withParity_length (seed : Bool) (bs : List Byte) : (withParity seed bs).length = bs.length := by
  simp [withParity]

@[simp] theorem map_fst_withParity (seed : Bool) (bs : List Byte) : (withParity seed bs).map Prod.fst = bs := by
  simp [withParity, Function.comp_def]

/-- Bit 9j + 8 of a frame is the parity bit of byte `j` (R73). -/
theorem characterBits_withParity_getD {seed : Bool} {bs : List Byte} {j : Nat} (hj : j < bs.length) :
    (characterBits (withParity seed bs)).getD (9 * j + 8) false = parityBit seed (bs.getD j 0) := by
  induction bs generalizing j with
  | nil => exact absurd hj (Nat.not_lt_zero j)
  | cons b bs ih =>
    rw [withParity_cons, characterBits_cons]
    cases j with
    | zero => rfl
    | succ j => exact ih (Nat.lt_of_succ_lt_succ hj)

theorem slotsOfBytes_eq (seed : Bool) (bs : List Byte) :
    bs.flatMap (slotsOfByte seed) = (characterBits (withParity seed bs)).flatMap slotsOfBit := by
  induction bs with
  | nil => rfl
  | cons b bs ih =>
    rw [withParity_cons, characterBits_cons, List.flatMap_append, List.flatMap_cons, List.flatMap_cons, ih, slotsOfByte,
      List.append_assoc]

/-- The start symbol has the slots of a 1: a frame is the slots of a 1 and its bits, then the end (R158). -/
theorem slotsOfFrame_eq (seed : Bool) (bs : List Byte) :
    slotsOfFrame seed bs = (true :: characterBits (withParity seed bs)).flatMap slotsOfBit ++ [false, false] := by
  rw [slotsOfFrame, slotsOfBytes_eq]
  rfl

/-! ## The adapter -/

/-- A 1 falls at its middle, whatever the line was (R72). -/
theorem fallingSlots_one (prev : Bool) (i : Nat) (l : List Bool) :
    fallingSlots prev i (slotsOfBit true ++ l) = (i + 1) :: fallingSlots false (i + 2) l := by
  cases prev <;> rfl

/-- A 0 falls at its start if the line was high (R72). -/
theorem fallingSlots_zero (prev : Bool) (i : Nat) (l : List Bool) :
    fallingSlots prev i (slotsOfBit false ++ l) =
      if prev then i :: fallingSlots true (i + 2) l else fallingSlots true (i + 2) l := by
  cases prev <;> rfl

/-- After a pause `since` slots back, at `p`, the falling transitions to come are the pauses of the same bits in modified Miller
code: the line is high before a bit exactly where the bit before it was a 0 (R71, R161(d)). -/
theorem stepsBetween_fallingSlots (p since : Nat) (prevOne : Bool) (bits : List Bool) :
    stepsBetween (p :: fallingSlots (!prevOne) (p + since) (bits.flatMap slotsOfBit ++ [false, false])) =
      millerGaps since prevOne bits := by
  induction bits generalizing p since prevOne with
  | nil => cases prevOne <;> simp [fallingSlots, stepsBetween, millerGaps]
  | cons b bits ih =>
    rw [List.flatMap_cons, List.append_assoc]
    cases b with
    | true =>
      rw [fallingSlots_one, stepsBetween, millerGaps, ← ih (p + since + 1)]
      congr 1
      omega
    | false =>
      rw [fallingSlots_zero]
      cases prevOne with
      | true => exact ih p (since + 2) false
      | false =>
        rw [Bool.not_false, if_pos rfl, stepsBetween, millerGaps, if_neg Bool.false_ne_true, ← ih (p + since),
          Nat.add_sub_cancel_left]
        rfl

end Sys2Proof.Machine

open Sys2Proof Sys2Proof.Machine

/-- Settles O43: the adapter puts the first pause two slots before the first bit, where the reader's code has it. -/
theorem adaptedSlotsAreReaderGaps : Obligations.AdaptedSlotsAreReaderGaps := by
  intro seed bs
  rw [adapterGaps, slotsOfFrame_eq]
  exact stepsBetween_fallingSlots 0 2 false _

/-- Settles O44: the adapted slots are a frame of the reader with the encoder's parity bits, which the decoder receives. -/
theorem encodedFramesDecodeToTheirBytes : Obligations.EncodedFramesDecodeToTheirBytes := by
  intro s seed bs start q hne hlen h8 hev hc hs he
  rw [adaptedSlotsAreReaderGaps] at he ⊢
  have hcs : withParity seed bs ≠ [] := by simpa [withParity] using hne
  obtain ⟨u, hrun, hctl, hn, hbytes⟩ := standardFramesDecodeToTheirBytes s (withParity seed bs) start q hcs
    (by rwa [withParity_length]) h8 hev hc hs he
  exact ⟨u, hrun, hctl, hn.trans (withParity_length seed bs), hbytes.trans (map_fst_withParity seed bs)⟩

/-- Settles O40: a frame is the slots of a 1 and of its 9n bits, then the two of the end. -/
theorem frameSlotsAreManchester : Obligations.FrameSlotsAreManchester := by
  intro seed bs
  have hbits : (true :: characterBits (withParity seed bs)).length = 9 * bs.length + 1 := by
    rw [List.length_cons, characterBits_length, withParity_length]
  have hlen := slotsOfBits_length (true :: characterBits (withParity seed bs))
  have hpair {j : Nat} (hj : j < 9 * bs.length + 1) :=
    slotsOfBits_getD (hbits.symm ▸ hj : j < (true :: characterBits (withParity seed bs)).length) [false, false]
  have hbit {i : Nat} (hi : i < 9 * bs.length) : (slotsOfFrame seed bs).getD (2 + 2 * i) false =
      (characterBits (withParity seed bs)).getD i false := by
    rw [slotsOfFrame_eq, Nat.add_comm, ← Nat.mul_succ, (hpair (by omega)).1, List.getD_cons_succ]
  refine ⟨?_, rfl, ?_, fun j hj => ?_, fun j hj k hk => ?_, fun j hj => ?_⟩
  · rw [slotsOfFrame_eq, List.length_append, hlen, hbits]
    simp only [List.length_cons, List.length_nil]
    omega
  · rw [slotsOfFrame_eq]
    exact List.drop_left' (by rw [hlen, hbits]; omega)
  · rw [slotsOfFrame_eq, (hpair hj).1, (hpair hj).2]
  · rw [hbit (by omega), characterBits_getD (by rwa [withParity_length]) hk, map_fst_withParity]
  · rw [hbit (by omega), characterBits_withParity_getD hj]

/-- Settles O39: the slots of the eight bits, then those of the parity bit. -/
theorem byteSlotsAreItsBitsAndParity : Obligations.ByteSlotsAreItsBitsAndParity := by
  refine fun seed b => ⟨rfl, fun k hk => ?_, rfl, rfl⟩
  rw [← bitsOf_getD b k hk]
  exact slotsOfBits_getD (hk.trans_eq (bitsOf_length b).symm) (slotsOfBit (parityBit seed b))
end

section
/-! SUPPORT. Proofs: a run of the Manchester encoder (42_manchester_encoder.md R150 to R160). The slots a state has still to drive
are read off its position and its registers (`slotsLeft`), and one step drives the first of them: so the run from the call drives
exactly the slots of the frame. -/

namespace Sys2Proof.Machine

variable {s u : State}

/-! ## The port and the frame of one slot -/

/-- The first slot after `setReplyDelay` waits the programmed reply delay (R255). -/
theorem slotTicks_btpSetReplyDelay (b : Bool) (s : State) :
    slotTicks (btpSetReplyDelay b s) = if b then s.params.fdtTicks1 else s.params.fdtTicks0 := by
  cases b <;> rfl

/-- After `m + 1` slots the first is recorded with the delay programmed for it, the others with half a bit period (R255, R256). -/
theorem btpWaitSlot_iterate_succ (m : Nat) (s : State) :
    btpWaitSlot^[m + 1] s = { s with
      portDelay := none
      portLog := List.replicate m (.waitSlot (s.params.tBit / 2)) ++ .waitSlot (slotTicks s) :: s.portLog } := by
  induction m with
  | zero => rfl
  | succ m ih =>
    rw [Function.iterate_succ_apply', ih]
    rfl

/-- `u` is `w` but for MOD, PAR, TXI, TXK and the control phase. -/
def SameButEncoder (w u : State) : Prop :=
  ∃ m p i k c, u = { w with modLine := m, par := p, txI := i, txK := k, ctl := c }

theorem SameButEncoder.emit {w : State} (h : SameButEncoder w u) (v p : Bool) (i k : Nat) (c : Ctl) :
    SameButEncoder (btpWaitSlot w) { emit v u with txI := i, txK := k, par := p, ctl := c } := by
  obtain ⟨_, _, _, _, _, rfl⟩ := h
  exact ⟨v, p, i, k, c, rfl⟩

theorem SameButEncoder.finishCommand {w : State} (h : SameButEncoder w u) :
    ∃ p i k, finishCommand (Machine.emit false u) =
      { finishCommand (btpWaitSlot w) with modLine := false, par := p, txI := i, txK := k } := by
  obtain ⟨_, p, i, k, _, rfl⟩ := h
  exact ⟨p, i, k, rfl⟩

/-! ## The slots still to be driven -/

/-- The slots of a character of which the data bits `bits` are still to come and the accumulator is `par` (R155, R156). -/
def characterSlots (par : Bool) (bits : List Bool) : List Bool :=
  bits.flatMap slotsOfBit ++ slotsOfBit (bits.foldl xor par)

theorem characterSlots_cons (par b : Bool) (bits : List Bool) :
    characterSlots par (b :: bits) = slotsOfBit b ++ characterSlots (xor par b) bits := by
  simp [characterSlots]

theorem characterSlots_bitsOf (seed : Bool) (b : Byte) : characterSlots seed (bitsOf b) = slotsOfByte seed b := rfl

theorem bitsOf_drop (b : Byte) : ∀ k < 8, (bitsOf b).drop k = b.getLsbD k :: (bitsOf b).drop (k + 1) := by
  intro k hk
  interval_cases k <;> rfl

/-- The slots of a frame of `bs` from byte `i` on (R158). -/
def slotsFrom (seed : Bool) (bs : List Byte) (i : Nat) : List Bool :=
  (bs.drop i).flatMap (slotsOfByte seed) ++ [false, false]

theorem slotsFrom_of_lt (seed : Bool) {bs : List Byte} {i : Nat} (h : i < bs.length) :
    slotsFrom seed bs i = slotsOfByte seed bs[i] ++ slotsFrom seed bs (i + 1) := by
  rw [slotsFrom, List.drop_eq_getElem_cons h, List.flatMap_cons, List.append_assoc]
  rfl

theorem slotsFrom_of_le (seed : Bool) {bs : List Byte} {i : Nat} (h : bs.length ≤ i) :
    slotsFrom seed bs i = [false, false] := by
  rw [slotsFrom, List.drop_eq_nil_of_le h]
  rfl

/-- The bytes of the running transmission (R150). -/
def sentBytes (s : State) : List Byte := (srcBytes s s.txSrc).take s.txLen

/-- The two slots of the symbol that is being sent (R155, R158). -/
def symbolSlots (sym : TxSym) (s : State) : List Bool :=
  match sym with
  | .soc => [true, false]
  | .bit => slotsOfBit ((txByte s).getLsbD s.txK)
  | .parity => slotsOfBit s.par
  | .eoc => [false, false]

/-- The slots after that symbol (R158). -/
def slotsAfter (sym : TxSym) (s : State) : List Bool :=
  match sym with
  | .soc => slotsFrom s.params.paritySeed (sentBytes s) 0
  | .bit =>
    characterSlots (parStep s.par (txByte s) s.txK) ((bitsOf (txByte s)).drop (s.txK + 1)) ++
      slotsFrom s.params.paritySeed (sentBytes s) (s.txI + 1)
  | .parity => slotsFrom s.params.paritySeed (sentBytes s) (s.txI + 1)
  | .eoc => []

/-- The slots a state has still to drive: of the symbol that is being sent the second alone when the first is out. -/
def slotsLeft (s : State) : List Bool :=
  match s.ctl with
  | .tx sym second => (symbolSlots sym s).drop (if second then 1 else 0) ++ slotsAfter sym s
  | _ => []

theorem slotsLeft_of_tx {sym : TxSym} {second : Bool} (hc : s.ctl = .tx sym second) :
    slotsLeft s = (symbolSlots sym s).drop (if second then 1 else 0) ++ slotsAfter sym s := by
  rw [slotsLeft, hc]

theorem symbolSlots_length (sym : TxSym) (s : State) : (symbolSlots sym s).length = 2 := by
  cases sym with
  | _ => rfl

theorem slotsLeft_ne_nil {sym : TxSym} {second : Bool} (hc : s.ctl = .tx sym second) : slotsLeft s ≠ [] := by
  refine List.ne_nil_of_length_pos ?_
  rw [slotsLeft_of_tx hc, List.length_append, List.length_drop, symbolSlots_length]
  split <;> omega

theorem slotsLeft_endCycle (s : State) : slotsLeft (endCycle s) = [] := by
  by_cases h : s.retry = 0
  · simp [slotsLeft, h]
  · simp [slotsLeft, h]

/-! ## One slot -/

/-- The transmission at `s` has bytes to send, all of them in its buffer, and is at a byte and a bit that exist (R150, R158). -/
structure Sends (sym : TxSym) (second : Bool) (s : State) : Prop where
  ctl : s.ctl = .tx sym second
  nonempty : 1 ≤ s.txLen
  inBuffer : s.txLen ≤ (srcBytes s s.txSrc).length
  inByte : sym ≠ .soc → s.txI < s.txLen ∧ s.txK ≤ 7

theorem step_of_tx {sym : TxSym} {second : Bool} (hc : s.ctl = .tx sym second) : step s = .next (stepTx sym second s) := by
  rw [step, hc]

@[simp] theorem emit_params (v : Bool) (s : State) : (emit v s).params = s.params := rfl
@[simp] theorem emit_txI (v : Bool) (s : State) : (emit v s).txI = s.txI := rfl
@[simp] theorem emit_txK (v : Bool) (s : State) : (emit v s).txK = s.txK := rfl
@[simp] theorem emit_par (v : Bool) (s : State) : (emit v s).par = s.par := rfl
@[simp] theorem txByte_emit (v : Bool) (s : State) : txByte (emit v s) = txByte s := rfl
@[simp] theorem sentBytes_emit (v : Bool) (s : State) : sentBytes (emit v s) = sentBytes s := rfl
@[simp] theorem txByte_setCtl (c : Ctl) (s : State) : txByte (s.setCtl c) = txByte s := rfl
@[simp] theorem sentBytes_setCtl (c : Ctl) (s : State) : sentBytes (s.setCtl c) = sentBytes s := rfl

/-- The slot itself changes nothing that the symbol and the slots after it depend on. -/
theorem slotsLeft_emit_setCtl (sym : TxSym) (v : Bool) (s : State) :
    slotsLeft ((emit v s).setCtl (.tx sym true)) = (symbolSlots sym s).drop 1 ++ slotsAfter sym s := by
  rw [slotsLeft_of_tx (setCtl_ctl _ _)]
  cases sym with
  | _ => simp [symbolSlots, slotsAfter]

/-- At bit `k` of byte `i` the rest of that character is left, and the bytes after it. -/
theorem slotsLeft_bit {i k : Nat} (hk : k < 8) (p : Bool) (s : State) :
    slotsLeft { s with txI := i, txK := k, par := p, ctl := .tx .bit false } =
      characterSlots p ((bitsOf ((srcBytes s s.txSrc).getD i 0)).drop k) ++
        slotsFrom s.params.paritySeed (sentBytes s) (i + 1) := by
  rw [bitsOf_drop _ k hk, characterSlots_cons, List.append_assoc]
  rfl

/-- At the start of byte `i` its slots are left and those of the bytes after it. -/
theorem slotsLeft_startByte {i : Nat} (hi : i < s.txLen) (hl : s.txLen ≤ (srcBytes s s.txSrc).length) :
    slotsLeft (startByte i s) = slotsFrom s.params.paritySeed (sentBytes s) i := by
  have hlen : i < (sentBytes s).length := hi.trans_eq (List.length_take_of_le hl).symm
  have hbyte : (sentBytes s)[i] = (srcBytes s s.txSrc).getD i 0 :=
    List.getElem_take.trans (List.getD_eq_getElem _ _ (hi.trans_le hl)).symm
  rw [slotsFrom_of_lt _ hlen, hbyte, ← characterSlots_bitsOf]
  exact slotsLeft_bit (by omega) _ s

/-- After a data bit the rest of its character is left: the next bit, or the parity bit (R155, R156). -/
theorem slotsLeft_afterBit (hk : s.txK ≤ 7) : slotsLeft (afterBit s) = slotsAfter .bit s := by
  by_cases h : s.txK < 7
  · rw [afterBit_of_lt h]
    exact slotsLeft_bit (by omega) _ s
  · rw [afterBit_of_not_lt h, slotsAfter, show s.txK = 7 by omega]
    rfl

/-- After a parity bit the bytes after it are left, or the end of communication alone (R158). -/
theorem slotsLeft_afterParity (hl : s.txLen ≤ (srcBytes s s.txSrc).length) :
    slotsLeft (afterParity s) = slotsAfter .parity s := by
  have hlen : (sentBytes s).length = s.txLen := List.length_take_of_le hl
  rw [slotsAfter, afterParity]
  split
  · exact slotsLeft_startByte ‹_› hl
  · rw [slotsFrom_of_le _ (by omega)]
    rfl

theorem afterBit_modLine (s : State) : (afterBit s).modLine = s.modLine := rfl

theorem afterParity_modLine (s : State) : (afterParity s).modLine = s.modLine := by
  rw [afterParity]
  split <;> rfl

/-- A step drives the first of the slots still to be driven and leaves the others. -/
theorem slotsLeft_stepTx {sym : TxSym} {second : Bool} (h : Sends sym second s) :
    slotsLeft s = (stepTx sym second s).modLine :: slotsLeft (stepTx sym second s) := by
  rw [slotsLeft_of_tx h.ctl]
  cases second with
  | false =>
    cases sym with
    | _ => rw [stepTx, slotsLeft_emit_setCtl]; rfl
  | true =>
    cases sym with
    | soc => rw [stepTx, slotsLeft_startByte (s := emit false s) h.nonempty h.inBuffer, sentBytes_emit]; rfl
    | bit =>
      obtain ⟨-, hk⟩ := h.inByte (by simp)
      rw [stepTx, afterBit_modLine, slotsLeft_afterBit (s := emit (!(txByte s).getLsbD s.txK) s) hk]
      rfl
    | parity => rw [stepTx, afterParity_modLine, slotsLeft_afterParity (s := emit (!s.par) s) h.inBuffer]; rfl
    | eoc => rw [stepTx, finishCommand, slotsLeft_endCycle]; rfl

/-! ## The run -/

/-- `k` slots of the transmission at `s` have been driven, and it goes on at `u`. -/
structure Driven (k : Nat) (s u : State) : Prop where
  run : Runs k s u
  sends : ∃ sym second, Sends sym second u
  left : slotsLeft u = (slotsLeft s).drop k
  frame : SameButEncoder (btpWaitSlot^[k] s) u

/-- The transmission at `s` is over at `u`: all its slots have been driven, and then what the command still does is done (R158,
R174, R175, R180). -/
def Sent (s u : State) : Prop :=
  ∃ p i k, u = { finishCommand (btpWaitSlot^[(slotsLeft s).length] s) with modLine := false, par := p, txI := i, txK := k }

/-- Before the first slot. -/
theorem Driven.refl {sym : TxSym} {second : Bool} (h : Sends sym second s) : Driven 0 s s :=
  ⟨rfl, ⟨sym, second, h⟩, rfl, s.modLine, s.par, s.txI, s.txK, s.ctl, rfl⟩

/-- One slot more: the line is at the slot of that number, and either slots are left and the transmission goes on, or that was
the last. -/
theorem Driven.next {k : Nat} (h : Driven k s u) (hk : k < (slotsLeft s).length) :
    ∃ v, Runs (k + 1) s v ∧ v.modLine = (slotsLeft s).getD k false ∧
      ((k + 1 < (slotsLeft s).length ∧ Driven (k + 1) s v) ∨ (k + 1 = (slotsLeft s).length ∧ Sent s v)) := by
  obtain ⟨hrun, ⟨sym, second, hs⟩, hleft, hframe⟩ := h
  have hslot := slotsLeft_stepTx hs
  rw [hleft, List.drop_eq_getElem_cons hk] at hslot
  obtain ⟨hmod, hrest⟩ := List.cons.inj hslot
  have hrun' := hrun.trans (.of_step (step_of_tx hs.ctl))
  refine ⟨_, hrun', by rw [← hmod, List.getD_eq_getElem _ _ hk], ?_⟩
  rcases stepTx_cases sym second u with ⟨-, -, e⟩ | ⟨v, i, b, p, sym', second', e, hb⟩
  · rw [e, finishCommand, slotsLeft_endCycle, List.drop_eq_nil_iff] at hrest
    have hlast : k + 1 = (slotsLeft s).length := by omega
    refine .inr ⟨hlast, ?_⟩
    rw [e, Sent, ← hlast, Function.iterate_succ_apply']
    exact hframe.finishCommand
  · rw [e] at hrest hrun' ⊢
    have hmore : k + 1 < (slotsLeft s).length := by
      by_contra hge
      exact slotsLeft_ne_nil rfl (hrest.symm.trans (List.drop_eq_nil_of_le (Nat.not_lt.1 hge)))
    refine .inl ⟨hmore, hrun', ⟨sym', second', rfl, hs.nonempty, hs.inBuffer, hb hs.nonempty hs.inByte⟩, hrest.symm, ?_⟩
    rw [Function.iterate_succ_apply']
    exact hframe.emit ..

theorem Driven.phase_ps {k : Nat} (h : Driven (k + 1) s u) : u.ctl.phase = .sTx ∧ u.ps = s.ps := by
  obtain ⟨-, ⟨sym, second, hs⟩, -, m, p, i, b, c, hu⟩ := h
  rw [btpWaitSlot_iterate_succ] at hu
  exact ⟨by rw [hs.ctl]; rfl, by rw [hu]⟩

/-- Every slot of a transmission is driven. -/
theorem Sends.exists_driven {sym : TxSym} {second : Bool} (h : Sends sym second s) {k : Nat}
    (hk : k < (slotsLeft s).length) : ∃ u, Driven k s u := by
  induction k with
  | zero => exact ⟨s, .refl h⟩
  | succ k ih =>
    obtain ⟨u, hu⟩ := ih (Nat.lt_of_succ_lt hk)
    obtain ⟨v, -, -, ⟨-, hv⟩ | ⟨hlast, -⟩⟩ := hu.next (Nat.lt_of_succ_lt hk)
    · exact ⟨v, hv⟩
    · exact absurd hk hlast.not_lt

/-! ## The call -/

theorem sends_startTx {src : TxSrc} {n : Nat} (hn : 1 ≤ n) (hl : n ≤ (srcBytes s src).length) (after : Option ProtState) :
    Sends .soc false (startTx src n after s) :=
  ⟨rfl, hn, hl, fun h => absurd rfl h⟩

/-- At the call the slots of the whole frame are left (R158). -/
theorem slotsLeft_startTx (src : TxSrc) (n : Nat) (after : Option ProtState) (s : State) :
    slotsLeft (startTx src n after s) = slotsOfFrame s.params.paritySeed ((srcBytes s src).take n) := rfl

end Sys2Proof.Machine

open Sys2Proof Sys2Proof.Machine

/-- Settles O41: at the call the slots of the frame are left, and each step drives the first of those left. -/
theorem encoderDrivesTheRecordedSlots : Obligations.EncoderDrivesTheRecordedSlots := by
  intro s src n after hn hl
  have hbytes : ((srcBytes s src).take n).length = n := List.length_take_of_le hl
  have hsends := sends_startTx hn hl after
  have hlen : (slotsLeft (startTx src n after s)).length = 18 * n + 4 := by
    rw [slotsLeft_startTx, (frameSlotsAreManchester _ _).1, hbytes]
  refine ⟨startTx src n after s, ⟨s.fdtSel, (srcBytes s src).take n, slotsLeft (startTx src n after s)⟩,
    txManchester_of_ne_zero src n after s (Nat.ne_of_gt hn), startTx_eq_answering src n after s _ rfl hbytes, rfl, rfl, rfl,
    hlen, fun k hk => ?_, ?_⟩
  · obtain ⟨u, hu⟩ := hsends.exists_driven (hk.trans_eq hlen.symm)
    obtain ⟨v, hrun, hmod, hv⟩ := hu.next (hk.trans_eq hlen.symm)
    refine ⟨v, hrun, hmod, fun hlt => ?_⟩
    rcases hv with ⟨-, hv⟩ | ⟨hlast, -⟩
    · exact hv.phase_ps
    · omega
  · obtain ⟨u, hu⟩ := hsends.exists_driven (k := 18 * n + 3) (by omega)
    obtain ⟨v, hrun, -, hv⟩ := hu.next (by omega)
    rcases hv with ⟨hlt, -⟩ | ⟨-, p, i, b, hv⟩
    · omega
    · rw [hlen, btpWaitSlot_iterate_succ] at hv
      exact ⟨v, hrun, by rw [hv]; rfl, by rw [hv]; rfl, by rw [hv]; rfl⟩

/-- Settles O42: a step inside a transmission is an `emit` and a move to the next symbol half, the last one an `emit` and the
assignment to PS. -/
theorem encoderWritesOnlyItsRegisters : Obligations.EncoderWritesOnlyItsRegisters := by
  intro s u sym second hc e
  rw [step_of_tx hc] at e
  cases e
  by_cases hlast : sym = .eoc ∧ second = true
  · obtain ⟨rfl, rfl⟩ := hlast
    exact ⟨rfl, fun h => absurd ⟨rfl, rfl⟩ h, fun _ => ⟨rfl, rfl⟩⟩
  · rcases stepTx_cases sym second s with ⟨h1, h2, -⟩ | ⟨v, i, k, b, sym', second', e, -⟩
    · exact absurd ⟨h1, h2⟩ hlast
    · rw [e]
      exact ⟨rfl, fun _ => ⟨rfl, rfl⟩, fun h => absurd h hlast⟩

/-- Settles O38: the first slot uses up the programmed delay. -/
theorem firstSlotWaitsTheReplyDelay : Obligations.FirstSlotWaitsTheReplyDelay := by
  intro s b v w
  refine ⟨?_, rfl⟩
  rw [emit, btpWaitSlot, slotTicks_btpSetReplyDelay]
  rfl
end

section
/-! SUPPORT. Proofs: what each command does (43_protocol_commands.md R170 to R189). A command is accepted in the protocol
states of its row and is "anything else" in all others (R82); what it does where it is accepted is `reply`, and a dispatch step
is the command of the row that matches the received frame. -/

namespace Sys2Proof.Machine

variable {s : State} {i : Instr}

/-! ## A command, accepted or not -/

/-- What command `i` does in a protocol state of its row (R174 to R184). -/
def reply (i : Instr) (s : State) : State :=
  match i with
  | .reqa => startTx .atqa 2 (some ⟨.ready, false⟩) s
  | .wupa => startTx .atqa 2 (some ⟨.ready, true⟩) s
  | .anticollCl1 => startTx .ctUid1 5 none s
  | .anticollCl2 => startTx .uid2 5 none s
  | .selectCl1 => startTx .sakNc 3 none s
  | .selectCl2 => startTx .sakC 3 (some ⟨.active, s.ps.halted⟩) s
  | .read block => startTx .fb 18 none (s.setFb (fbFill s.fb 0 (withCrc (readData s block))))
  | .write block rest =>
    if writeAccepted block rest then
      startTx .fb 1 none (fbWrite 0 Config.ack (writeBlock block.toNat (writeData rest) s))
    else startTx .fb 1 none (fbWrite 0 Config.nak s)
  | .hlta => endCycle (s.setPs ⟨.idle, true⟩)

/-- Every command has two outcomes: its own where it is accepted, and "anything else" (R82). -/
theorem exec_cases (i : Instr) (s : State) :
    (Accepted s.ps i ∧ exec i s = .next (reply i s)) ∨ (¬ Accepted s.ps i ∧ exec i s = .next (anythingElse s)) := by
  cases i with
  | reqa => exact execReqa_cases s
  | wupa => exact execWupa_cases s
  | anticollCl1 => exact execAnticollCl1_cases s
  | anticollCl2 => exact execAnticollCl2_cases s
  | selectCl1 => exact execSelectCl1_cases s
  | selectCl2 => exact execSelectCl2_cases s
  | read block => exact execRead_cases block s
  | write block rest =>
    rcases execWrite_cases block rest s with ⟨hp, hw, h⟩ | ⟨hp, hw, h⟩ | h
    · exact .inl ⟨hp, by rw [reply, if_pos hw]; exact h⟩
    · exact .inl ⟨hp, by rw [reply, hw]; exact h⟩
    · exact .inr h
  | hlta => exact execHlta_cases s

theorem exec_of_accepted (h : Accepted s.ps i) : exec i s = .next (reply i s) := by
  rcases exec_cases i s with ⟨-, e⟩ | ⟨hn, -⟩
  · exact e
  · exact absurd h hn

theorem exec_of_not_accepted (h : ¬ Accepted s.ps i) : exec i s = .next (anythingElse s) := by
  rcases exec_cases i s with ⟨ha, -⟩ | ⟨-, e⟩
  · exact absurd ha h
  · exact e

/-! ## The frame that is dispatched -/

theorem step_of_dispatch (hc : s.ctl = .dispatch) : step s = stepDispatch s := by
  rw [step, hc]

theorem step_of_decodeFrame_ok (hc : s.ctl = .dispatch) (h : decodeFrame s.statics.hlta (received s) = .ok i) :
    step s = exec i s := by
  rw [step_of_dispatch hc, stepDispatch, h]

theorem step_of_decodeFrame_error {e : Reject} (hc : s.ctl = .dispatch)
    (h : decodeFrame s.statics.hlta (received s) = .error e) : step s = .next (anythingElse s) := by
  rw [step_of_dispatch hc, stepDispatch, h]

/-- An initialised block compares HLTA with the pattern of its row (R184, R211). -/
theorem Built.hlta (hb : Built s) : s.statics.hlta = hltaPattern := by
  rw [hb]
  exact hlta_of_buildStatics _

/-- A frame the row of a command matches is dispatched as that command. -/
theorem step_of_rowMatches (hb : Built s) (hc : s.ctl = .dispatch) (h : RowMatches i (received s)) : step s = exec i s :=
  step_of_decodeFrame_ok hc (Built.hlta hb ▸ h.decodeFrame (received_length_le s))

/-- A frame that begins with a pattern is the pattern and then some bytes (R171). -/
theorem exists_received_of_matchPattern {pat : List Byte} (hl : s.rxBytes ≤ Config.fbCap)
    (h : matchPattern s pat = true) : ∃ t, received s = pat ++ t := by
  rw [matchPattern_eq_beginsWith hl, beginsWith, List.isPrefixOf_iff_prefix] at h
  obtain ⟨t, ht⟩ := h
  exact ⟨t, ht.symm⟩

/-- A frame that begins with the pattern of a row without operands is dispatched as its command. -/
theorem step_of_matchPattern {pat : List Byte} (hrow : ∀ t, RowMatches i (pat ++ t)) (hb : Built s)
    (hc : s.ctl = .dispatch) (hl : s.rxBytes ≤ Config.fbCap) (h : matchPattern s pat = true) : step s = exec i s := by
  obtain ⟨t, ht⟩ := exists_received_of_matchPattern hl h
  exact step_of_rowMatches hb hc (ht ▸ hrow t)

/-- A frame of two bytes or more that begins with the byte of READ or WRITE has its block index in FB[1] (R78). -/
theorem received_of_matchPattern_one {b : Byte} (h2 : 2 ≤ s.rxBytes) (hl : s.rxBytes ≤ Config.fbCap)
    (h : matchPattern s [b] = true) : received s = b :: fbRead s 1 :: (received s).drop 2 := by
  obtain ⟨t, ht⟩ := exists_received_of_matchPattern hl h
  have hlen := received_length s hl
  rw [ht] at hlen
  obtain ⟨block, t, rfl⟩ := List.exists_cons_of_length_pos (l := t) (by simp at hlen; omega)
  have hblock := received_getD s 1 h2
  rw [ht] at hblock ⊢
  rw [← hblock]
  rfl

/-- READ and WRITE are told by their first byte, whatever the static frame HLTA holds (R80). -/
theorem decodeFrame_read (hlta : List Byte) {block : Byte} {t : List Byte}
    (hl : (0x30 :: block :: t : List Byte).length ≤ Config.fbCap) :
    decodeFrame hlta (0x30 :: block :: t) = .ok (.read block) := by
  rw [decodeFrame, if_neg (Nat.not_lt.2 hl)]
  simp [patReqa, patWupa, patAnticollCl1, patAnticollCl2, patSelectCl1, patSelectCl2, patRead, Config.cmdReqa,
    Config.cmdWupa, Config.selCl1, Config.selCl2, Config.cmdRead]

theorem decodeFrame_write (hlta : List Byte) {block : Byte} {rest : List Byte}
    (hl : (0xA2 :: block :: rest : List Byte).length ≤ Config.fbCap) :
    decodeFrame hlta (0xA2 :: block :: rest) = .ok (.write block rest) := by
  rw [decodeFrame, if_neg (Nat.not_lt.2 hl)]
  simp [patReqa, patWupa, patAnticollCl1, patAnticollCl2, patSelectCl1, patSelectCl2, patRead, patWrite, Config.cmdReqa,
    Config.cmdWupa, Config.selCl1, Config.selCl2, Config.cmdRead, Config.cmdWrite]

theorem step_of_matchPattern_read (hc : s.ctl = .dispatch) (h2 : 2 ≤ s.rxBytes) (hl : s.rxBytes ≤ Config.fbCap)
    (h : matchPattern s [0x30] = true) : step s = exec (.read (fbRead s 1)) s := by
  have hr := received_of_matchPattern_one h2 hl h
  refine step_of_decodeFrame_ok hc ?_
  rw [hr]
  exact decodeFrame_read _ (hr ▸ received_length_le s)

theorem step_of_matchPattern_write (hc : s.ctl = .dispatch) (h2 : 2 ≤ s.rxBytes) (hl : s.rxBytes ≤ Config.fbCap)
    (h : matchPattern s [0xA2] = true) : step s = exec (.write (fbRead s 1) ((received s).drop 2)) s := by
  have hr := received_of_matchPattern_one h2 hl h
  refine step_of_decodeFrame_ok hc ?_
  rw [hr]
  exact decodeFrame_write _ (hr ▸ received_length_le s)

/-! ## "Anything else" -/

/-- Where a row of the current phase matches the frame, some row is selected. -/
theorem selectsNoRow_eq_false_of_accepted (hl : s.rxBytes ≤ Config.fbCap) (hh : s.statics.hlta = hltaPattern)
    (hm : RowMatches i (received s)) (ha : Accepted s.ps i) : selectsNoRow s = false := by
  have h2 {b block : Byte} {t : List Byte} (hr : received s = b :: block :: t) : 2 ≤ s.rxBytes := by
    rw [← received_length s hl, hr]; simp
  generalize hr : received s = bs at hm
  simp only [selectsNoRow, matchPattern_eq_beginsWith hl, hh, hr, beginsWith, hltaPattern]
  cases hm with
  | reqa t => simp only [show s.ps = _ from ha]; rfl
  | wupa t => simp only [show s.ps = _ from ha]; rfl
  | anticollCl1 t => simp [show s.ps.phase = _ from ha]
  | anticollCl2 t => simp [show s.ps.phase = _ from ha]
  | selectCl1 t => simp [show s.ps.phase = _ from ha]
  | selectCl2 t => simp [show s.ps.phase = _ from ha]
  | read block t => simp [show s.ps.phase = _ from ha, h2 hr]
  | write block t => simp [show s.ps.phase = _ from ha, h2 hr]
  | hlta t => simp [show s.ps.phase = _ from ha]

/-- A frame that selects no row is "anything else": it is no command, or one that is not accepted in this phase. -/
theorem step_of_selectsNoRow (hb : Built s) (hl : s.rxBytes ≤ Config.fbCap) (hc : s.ctl = .dispatch)
    (h : selectsNoRow s = true) : step s = .next (anythingElse s) := by
  cases hd : decodeFrame s.statics.hlta (received s) with
  | error e => exact step_of_decodeFrame_error hc hd
  | ok i =>
    rw [step_of_decodeFrame_ok hc hd]
    rw [Built.hlta hb] at hd
    refine exec_of_not_accepted fun ha => ?_
    rw [selectsNoRow_eq_false_of_accepted hl (Built.hlta hb) (rowMatches_of_decode hd).2 ha] at h
    cases h

end Sys2Proof.Machine

open Sys2Proof Sys2Proof.Machine

/-- Settles O4: the dispatcher decodes the received frame. -/
theorem stepRunsTheDecodedCommand : Obligations.StepRunsTheDecodedCommand :=
  fun _ hc => ⟨fun _ => step_of_decodeFrame_ok hc, fun _ => step_of_decodeFrame_error hc⟩

/-- Settles O15: the step falls back, and `anythingElse_eq` says by phase what that writes. -/
theorem anythingElseFallsBackByPhase : Obligations.AnythingElseFallsBackByPhase := by
  intro s hb hl hc h
  refine ⟨_, step_of_selectsNoRow hb hl hc h, ?_⟩
  rw [anythingElse_eq]
  refine ⟨rfl, fun hp => ?_, fun hp => ?_, fun hp h0 => ?_, fun hp h0 => ?_⟩
  · simp [hp]
  · simp [hp]
  · simp [hp, h0]
  · simp [hp, h0]

/-- Settles O14. -/
theorem hltaHaltsSilently : Obligations.HltaHaltsSilently := fun _ hb =>
  ⟨fun hp => ⟨_, exec_of_accepted (i := .hlta) hp, rfl, rfl, rfl, fun _ _ => rfl⟩,
    exec_of_not_accepted (i := .hlta), fun hc hl => step_of_matchPattern .hlta hb hc hl⟩
end

section
/-! SUPPORT. Proofs: the commands that answer with a static frame (43_protocol_commands.md R174 to R180). Each begins the
transmission of its frame; where it owes an assignment to PS, the run of the encoder makes it. -/

namespace Sys2Proof.Machine

variable {s : State} {i : Instr}

/-! ## The static frames -/

/-- The check value of 04, the byte of SAK "not complete" (R101, R179). -/
theorem crcRun_sakNc : crcRun [0x04] = 0x17DA := by
  simp [crcRun, crcByte, crcShift, Config.crcSeed]

/-- The check value of 00, the byte of SAK "complete" (R101, R180). -/
theorem crcRun_sakC : crcRun [0x00] = 0x51FE := by
  simp [crcRun, crcByte, crcShift, Config.crcSeed]

theorem withCrc_sakNc : withCrc [0x04] = [0x04, 0xDA, 0x17] := by
  rw [withCrc, crcBytes, crc16, crcRun_sakNc]
  rfl

theorem withCrc_sakC : withCrc [0x00] = [0x00, 0xFE, 0x51] := by
  rw [withCrc, crcBytes, crc16, crcRun_sakC]
  rfl

theorem Built.srcBytes_atqa (hb : Built s) : srcBytes s .atqa = [0x44, 0x00] := by
  rw [srcBytes, hb]
  rfl

theorem Built.srcBytes_sakNc (hb : Built s) : srcBytes s .sakNc = [0x04, 0xDA, 0x17] := by
  rw [srcBytes, hb, ← withCrc_sakNc]
  rfl

theorem Built.srcBytes_sakC (hb : Built s) : srcBytes s .sakC = [0x00, 0xFE, 0x51] := by
  rw [srcBytes, hb, ← withCrc_sakC]
  rfl

/-! ## The answers -/

/-- A command that is answered with the whole of a static frame. -/
theorem exec_eq_answering {src : TxSrc} {bytes : List Byte} {after : Option ProtState} (ha : Accepted s.ps i)
    (hr : reply i s = startTx src bytes.length after s) (hbytes : srcBytes s src = bytes) :
    exec i s = .next (answering src bytes after s) := by
  rw [exec_of_accepted ha, hr, startTx_eq_answering src bytes.length after s bytes (by rw [hbytes, List.take_length]) rfl]

/-- The transmission that a command owes an assignment to PS after ends with that assignment, in the step of its last slot, and
touches no storage byte (R60, R158). -/
theorem exists_run_answering {src : TxSrc} {bytes : List Byte} (hpos : 1 ≤ bytes.length) (hbytes : srcBytes s src = bytes)
    (p : ProtState) :
    ∃ u : State, Host.Core.run Sys2Proof.core (18 * bytes.length + 4) (answering src bytes (some p) s) = .next u ∧
      u.ps = p ∧ SameBytes s u := by
  obtain ⟨s0, r, -, rfl, -, -, -, -, -, u, hrun, hps, -, hu⟩ :=
    encoderDrivesTheRecordedSlots s src bytes.length (some p) hpos (by rw [hbytes])
  rw [hbytes, List.take_length] at hrun hu
  exact ⟨u, hrun, hps, fun ref off => by rw [hu]; rfl⟩

end Sys2Proof.Machine

open Sys2Proof Sys2Proof.Machine

/-- Settles O6: the answer is the two bytes of ATQA, whose 40 slots the encoder drives before PS becomes READY. -/
theorem reqaAnswersAtqaOnlyWhenIdleAndNotHalted : Obligations.ReqaAnswersAtqaOnlyWhenIdleAndNotHalted := by
  intro s hb
  have hsrc := Built.srcBytes_atqa hb
  exact ⟨fun hp => ⟨_, exec_eq_answering (i := .reqa) hp rfl hsrc, rfl, byteAt_answering s _ _ _,
      exists_run_answering (by decide) hsrc _⟩,
    exec_of_not_accepted (i := .reqa), fun hc hl => step_of_matchPattern .reqa hb hc hl⟩

/-- Settles O7: the answer is that of REQA, and PS keeps its halted flag. -/
theorem wupaAnswersAtqaOnlyWhenHalted : Obligations.WupaAnswersAtqaOnlyWhenHalted := by
  intro s hb
  have hsrc := Built.srcBytes_atqa hb
  exact ⟨fun hp => ⟨_, exec_eq_answering (i := .wupa) hp rfl hsrc, rfl, byteAt_answering s _ _ _,
      exists_run_answering (by decide) hsrc _⟩,
    exec_of_not_accepted (i := .wupa), fun hc hl => step_of_matchPattern .wupa hb hc hl⟩

/-- Settles O11: the answer is the three bytes of SAK_C, whose 58 slots the encoder drives before the phase becomes ACTIVE. -/
theorem selectCl2SendsSakCompleteAndActivates : Obligations.SelectCl2SendsSakCompleteAndActivates := by
  intro s hb
  have hsrc := Built.srcBytes_sakC hb
  exact ⟨fun hp => ⟨_, exec_eq_answering (i := .selectCl2) hp rfl hsrc, rfl, byteAt_answering s _ _ _,
      exists_run_answering (by decide) hsrc _⟩,
    exec_of_not_accepted (i := .selectCl2), fun hc hl => step_of_matchPattern .selectCl2 hb hc hl⟩

/-- Settles O8: the static frame CT_UID1 is the cascade tag, the first three bytes of the UID and their check byte. -/
theorem anticollCl1SendsTheFirstUidFrame : Obligations.AnticollCl1SendsTheFirstUidFrame := by
  intro s hb
  have hsrc : srcBytes s .ctUid1 = (buildStatics s.params.uid).ctUid1 := by rw [← hb]; rfl
  exact ⟨fun hp => ⟨_, exec_eq_answering (i := .anticollCl1) hp rfl hsrc, rfl, byteAt_answering s _ _ _⟩,
    exec_of_not_accepted (i := .anticollCl1), fun hc hl => step_of_matchPattern .anticollCl1 hb hc hl⟩

/-- Settles O9: the static frame UID2 is the last four bytes of the UID and their check byte. -/
theorem anticollCl2SendsTheSecondUidFrame : Obligations.AnticollCl2SendsTheSecondUidFrame := by
  intro s hb
  have hsrc : srcBytes s .uid2 = (buildStatics s.params.uid).uid2 := by rw [← hb]; rfl
  exact ⟨fun hp => ⟨_, exec_eq_answering (i := .anticollCl2) hp rfl hsrc, rfl, byteAt_answering s _ _ _⟩,
    exec_of_not_accepted (i := .anticollCl2), fun hc hl => step_of_matchPattern .anticollCl2 hb hc hl⟩

/-- Settles O10: the answer is the three bytes of SAK_NC. -/
theorem selectCl1SendsSakNotComplete : Obligations.SelectCl1SendsSakNotComplete := by
  intro s hb
  have hsrc := Built.srcBytes_sakNc hb
  exact ⟨fun hp => ⟨_, exec_eq_answering (i := .selectCl1) hp rfl hsrc, rfl, byteAt_answering s _ _ _⟩,
    exec_of_not_accepted (i := .selectCl1), fun hc hl => step_of_matchPattern .selectCl1 hb hc hl⟩
end

section
/-! SUPPORT. Proofs: READ and WRITE (43_protocol_commands.md R182, R183), which answer from FB, and the dispatcher as R173 writes
it. -/

namespace Sys2Proof.Machine

variable {s : State}

/-! ## READ -/

/-- The four blocks READ sends are sixteen bytes in a row (R182, R218). -/
theorem readData_eq (s : State) (block : Byte) :
    readData s block = (List.range 16).map (fun i => memRead s (4 * block.toNat + i)) := rfl

theorem readData_getD (s : State) (block : Byte) {i : Nat} (hi : i < 16) :
    (readData s block).getD i 0 = memRead s (4 * block.toNat + i) := by
  rw [readData_eq, List.getD_eq_getElem _ _ (by simpa using hi), List.getElem_map, List.getElem_range]

/-- READ sends eighteen bytes (R182). -/
theorem withCrc_readData_length (s : State) (block : Byte) : (withCrc (readData s block)).length = 18 := rfl

/-- What FB is filled with from its first byte on is what a transmission of so many bytes sends. -/
theorem take_fbFill (f : Vector Byte 64) {bs : List Byte} (h : bs.length ≤ 64) :
    (fbFill f 0 bs).toList.take bs.length = bs := by
  refine List.ext_getElem (by simpa using h) fun j hj hj' => ?_
  have hfill := getElem?_fbFill f 0 bs j
  rw [if_pos ⟨Nat.zero_le j, by omega, by omega⟩, Nat.sub_zero, List.getD_eq_getElem _ _ hj'] at hfill
  simpa [show j < 64 by omega] using hfill

/-- What FB is after it has been filled from its first byte on. -/
theorem fbRead_fill (s : State) {bs : List Byte} (h : bs.length ≤ 64) (i : Nat) :
    fbRead (s.setFb (fbFill s.fb 0 bs)) i = if i < bs.length then bs.getD i 0 else fbRead s i := by
  rw [fbRead_setFb, getElem?_fbFill, Nat.sub_zero]
  exact if_congr (by omega) rfl rfl

@[simp] theorem fbRead_answering (src : TxSrc) (bs : List Byte) (after : Option ProtState) (s : State) (i : Nat) :
    fbRead (answering src bs after s) i = fbRead s i := rfl

theorem exec_read_of_active (block : Byte) (hp : s.ps.phase = .active) :
    exec (.read block) s =
      .next (answering .fb (withCrc (readData s block)) none (s.setFb (fbFill s.fb 0 (withCrc (readData s block))))) := by
  have hlen := withCrc_readData_length s block
  rw [exec_of_accepted (i := .read block) hp, reply, startTx_eq_answering .fb 18 none _ _ ?_ hlen]
  exact hlen ▸ take_fbFill s.fb (by omega)

/-! ## WRITE -/

/-- A WRITE is accepted when it is eight bytes long and its last two are the CRC of the others (R183). -/
theorem writeAccepted_iff (block : Byte) (rest : List Byte) :
    writeAccepted block rest = true ↔
      rest.length = 6 ∧ crc16 (0xA2 :: block :: rest.take 4) = (rest.getD 4 0, rest.getD 5 0) := by
  by_cases hlen : rest.length = 6
  · match rest, hlen with
    | [d0, d1, d2, d3, lo, hi], _ =>
      have hcrc := crcOk_append_pair [0xA2, block, d0, d1, d2, d3] lo hi
      simpa [writeAccepted, writeFrame, Config.cmdWrite] using hcrc
  · simp [writeAccepted, writeFrame, hlen]

theorem setStorage_setStorage (s : State) (m m' : Memory) : (s.setStorage m).setStorage m' = s.setStorage m' := rfl

/-- The four bytes of a block, written one after the other (R219). -/
theorem writeBlock_four (index : Nat) (d0 d1 d2 d3 : Byte) (s : State) :
    writeBlock index [d0, d1, d2, d3] s =
      memWrite (memWrite (memWrite (memWrite s (4 * index + 0) d0) (4 * index + 1) d1) (4 * index + 2) d2)
        (4 * index + 3) d3 := by
  simp only [writeBlock, regionFill, memWrite, blockOffset, setStorage_storage, setStorage_storageSize,
    setStorage_setStorage, Nat.add_zero, Nat.add_assoc, Nat.reduceAdd]

/-- An answer of one byte is written into FB[0] and sent from there (R183). -/
theorem startTx_fbWrite_zero (v : Byte) (s : State) :
    startTx .fb 1 none (fbWrite 0 v s) = answering .fb [v] none (fbWrite 0 v s) :=
  startTx_eq_answering .fb 1 none _ _ (take_fbFill s.fb (bs := [v]) (by simp)) rfl

theorem exec_write_of_accepted {block : Byte} {rest : List Byte} (hp : s.ps.phase = .active)
    (h : writeAccepted block rest = true) :
    exec (.write block rest) s =
      .next (answering .fb [0x0A] none (fbWrite 0 0x0A (writeBlock block.toNat (rest.take 4) s))) := by
  rw [exec_of_accepted (i := .write block rest) hp, reply, if_pos h, startTx_fbWrite_zero]
  rfl

theorem exec_write_of_refused {block : Byte} {rest : List Byte} (hp : s.ps.phase = .active)
    (h : ¬ writeAccepted block rest = true) :
    exec (.write block rest) s = .next (answering .fb [0x01] none (fbWrite 0 0x01 s)) := by
  rw [exec_of_accepted (i := .write block rest) hp, reply, if_neg h, startTx_fbWrite_zero]
  rfl

/-- One byte written into FB[0] is the only one of FB that changes. -/
theorem fbRead_fbWrite_zero (v : Byte) (s : State) :
    fbRead (fbWrite 0 v s) 0 = v ∧ ∀ i, 1 ≤ i → fbRead (fbWrite 0 v s) i = fbRead s i :=
  ⟨by rw [fbRead_fbWrite, if_pos ⟨rfl, by decide⟩], fun i hi => by rw [fbRead_fbWrite, if_neg (by omega)]⟩

/-! ## The pseudocode -/

/-- The received frame is FB[0..RXBYTES-1] (R21). -/
theorem received_eq_fbSlice (hl : s.rxBytes ≤ Config.fbCap) : received s = fbSlice s 0 s.rxBytes := by
  have hlen := received_length s hl
  refine List.ext_getElem (by simp [fbSlice, hlen]) fun i hi _ => ?_
  rw [← List.getD_eq_getElem _ 0 hi, received_getD s i (by omega)]
  simp [fbSlice]

/-- `READ()` of R182 is what READ does where it is accepted. -/
theorem pseudoRead_eq (s : State) : pseudoRead s = .next (reply (.read (fbRead s 1)) s) := by
  rw [pseudoRead, txManchester_succ, reply, readData_eq]
  rfl

/-- `WRITE()` of R183, on a frame that begins with A2, is what WRITE does where it is accepted: a frame of eight bytes has its
data and its CRC at the indices R183 names, and one of another length is refused by both. -/
theorem pseudoWrite_eq (hl : s.rxBytes ≤ Config.fbCap) (h2 : 2 ≤ s.rxBytes) (hm : matchPattern s [0xA2] = true) :
    pseudoWrite s = .next (reply (.write (fbRead s 1) ((received s).drop 2)) s) := by
  have hr := received_of_matchPattern_one h2 hl hm
  have hlen := received_length s hl
  by_cases h8 : s.rxBytes = 8
  · have hr8 : received s = fbSlice s 0 8 := h8 ▸ received_eq_fbSlice hl
    have hd : (received s).drop 2 =
        [fbRead s 2, fbRead s 3, fbRead s 4, fbRead s 5, fbRead s 6, fbRead s 7] := by rw [hr8]; rfl
    have h6 : fbSlice s 0 6 = 0xA2 :: fbRead s 1 :: [fbRead s 2, fbRead s 3, fbRead s 4, fbRead s 5] := by
      have h0 : fbRead s 0 = 0xA2 := (List.cons.inj (hr8.symm.trans hr)).1
      rw [← h0]; rfl
    have hacc : (crc16 (fbSlice s 0 6) == (fbRead s 6, fbRead s 7)) = writeAccepted (fbRead s 1) ((received s).drop 2) := by
      rw [Bool.eq_iff_iff, writeAccepted_iff, beq_iff_eq, hd, h6]
      simp
    simp only [pseudoWrite, h8, hacc, decide_true, Bool.true_and, txManchester_succ, ← writeBlock_four, reply, hd, writeData]
    split <;> rfl
  · have hacc : ¬ writeAccepted (fbRead s 1) ((received s).drop 2) = true := fun h => by
      have := ((writeAccepted_iff _ _).1 h).1
      rw [List.length_drop] at this
      omega
    simp only [pseudoWrite, h8, decide_false, Bool.false_and, txManchester_succ, reply, if_neg hacc]
    rfl

/-- In ACTIVE no row is selected when READ, WRITE and HLTA are all told apart from the frame. -/
theorem selectsNoRow_of_active (hp : s.ps.phase = .active)
    (hread : ¬ (decide (2 ≤ s.rxBytes) && matchPattern s [0x30]) = true)
    (hwrite : ¬ (decide (2 ≤ s.rxBytes) && matchPattern s [0xA2]) = true)
    (hhlta : ¬ matchPattern s s.statics.hlta = true) : selectsNoRow s = true := by
  rw [Bool.not_eq_true] at hread hwrite hhlta
  simp only [selectsNoRow, hp, Bool.and_or_distrib_left, hread, hwrite, hhlta, Bool.or_false, Bool.not_false]

end Sys2Proof.Machine

open Sys2Proof Sys2Proof.Machine

/-- Settles O12: FB is filled with sixteen storage bytes and their CRC, and the transmission sends what it was filled with. -/
theorem readSendsSixteenStorageBytesAndTheirCrc : Obligations.ReadSendsSixteenStorageBytesAndTheirCrc := by
  intro s block
  have hlen := withCrc_readData_length s block
  have hfb := fbRead_fill s (bs := withCrc (readData s block)) (by omega)
  rw [hlen] at hfb
  refine ⟨fun hp => ⟨_, exec_read_of_active block hp, ⟨readData s block, rfl, fun i hi => ?_, fun i hi => ?_, ?_,
    fun i hi => ?_, rfl⟩, fun ref off => ?_⟩, exec_of_not_accepted (i := .read block), step_of_matchPattern_read⟩
  · rw [readData_getD s block hi, memRead_eq]
  · rw [fbRead_answering, hfb, if_pos (by omega), withCrc, List.getD_append _ _ _ _ hi]
  · rw [fbRead_answering, fbRead_answering, hfb, hfb]
    rfl
  · rw [fbRead_answering, hfb, if_neg (by omega)]
  · rw [byteAt_answering, byteAt_setFb]

/-- Settles O13: an accepted frame writes a block and is answered with ACK, any other with NAK. -/
theorem writeStoresAndSendsAckOrSendsNak : Obligations.WriteStoresAndSendsAckOrSendsNak := by
  intro s hwf
  refine ⟨fun block d0 d1 d2 d3 hp => ?_, fun block rest hp hbad => ?_,
    fun block rest => exec_of_not_accepted (i := .write block rest), step_of_matchPattern_write⟩
  · have hbyte := byteAt_writeBlock block.toNat [d0, d1, d2, d3] s hwf
    obtain ⟨hack, hfb⟩ := fbRead_fbWrite_zero 0x0A (writeBlock block.toNat [d0, d1, d2, d3] s)
    refine ⟨_, exec_write_of_accepted hp ((writeAccepted_iff _ _).2 ⟨rfl, rfl⟩), fun i hi ho => ?_, fun ref off hout => ?_,
      hack, hfb, rfl⟩
    · exact (hbyte _ _).trans (by rw [if_pos ⟨rfl, by omega, by simpa using hi, ho⟩, Nat.add_sub_cancel_left])
    · exact (hbyte _ _).trans (if_neg hout)
  · obtain ⟨hnak, hfb⟩ := fbRead_fbWrite_zero 0x01 s
    have hacc : ¬ writeAccepted block rest = true := fun h => by
      obtain ⟨hlen, hcrc⟩ := (writeAccepted_iff _ _).1 h
      exact hbad.elim (absurd hlen) (absurd hcrc)
    exact ⟨_, exec_write_of_refused hp hacc, hnak, hfb, rfl,
      fun ref off => by rw [byteAt_answering, byteAt_fbWrite]⟩

/-- Settles O5: by phase, each test of the pseudocode is the row of a command, and where all of them fail the frame selects no
row. -/
theorem dispatchIsThePseudocode : Obligations.DispatchIsThePseudocode := by
  intro s hb hl hc
  have command {i : Instr} {pat : List Byte} (ha : Accepted s.ps i) (hrow : ∀ t, RowMatches i (pat ++ t))
      (h : matchPattern s pat = true) : step s = .next (reply i s) :=
    (step_of_matchPattern hrow hb hc hl h).trans (exec_of_accepted ha)
  have fallBack (h : selectsNoRow s = true) : step s = .next (anythingElse s) := step_of_selectsNoRow hb hl hc h
  unfold pseudoDispatch
  cases hp : s.ps.phase with
  | idle =>
    dsimp only
    split_ifs with h1 h2
    · rw [Bool.and_eq_true, Bool.not_eq_true'] at h1
      have hps : s.ps = ⟨.idle, false⟩ := by rw [← hp, ← h1.1]
      exact command (i := .reqa) hps .reqa h1.2
    · rw [Bool.and_eq_true] at h2
      have hps : s.ps = ⟨.idle, true⟩ := by rw [← hp, ← h2.1]
      exact command (i := .wupa) hps .wupa h2.2
    · have hno : selectsNoRow s = true := by
        cases hH : s.ps.halted with
        | false =>
          rw [hH, Bool.not_false, Bool.true_and, Bool.not_eq_true] at h1
          simp only [selectsNoRow, hp, hH, Bool.false_eq_true, if_false, h1, Bool.not_false]
        | true =>
          rw [hH, Bool.true_and, Bool.not_eq_true] at h2
          simp only [selectsNoRow, hp, hH, if_true, h2, Bool.not_false]
      rw [fallBack hno, anythingElse, hp]
  | ready =>
    dsimp only
    split_ifs with h1 h2 h3 h4
    · exact command (i := .anticollCl1) hp .anticollCl1 h1
    · exact command (i := .anticollCl2) hp .anticollCl2 h2
    · exact command (i := .selectCl1) hp .selectCl1 h3
    · exact command (i := .selectCl2) hp .selectCl2 h4
    · rw [Bool.not_eq_true] at h1 h2 h3 h4
      rw [fallBack (by simp only [selectsNoRow, hp, h1, h2, h3, h4, Bool.or_false, Bool.not_false]), anythingElse, hp]
  | active =>
    dsimp only
    split_ifs with h1 h2 h3 h0
    · rw [Bool.and_eq_true, decide_eq_true_eq] at h1
      rw [step_of_matchPattern_read hc h1.1 hl h1.2, exec_of_accepted (i := .read _) hp, pseudoRead_eq]
    · rw [Bool.and_eq_true, decide_eq_true_eq] at h2
      rw [step_of_matchPattern_write hc h2.1 hl h2.2, exec_of_accepted (i := .write _ _) hp, pseudoWrite_eq hl h2.1 h2.2]
    · rw [Built.hlta hb] at h3
      exact command (i := .hlta) hp .hlta h3
    · have hno := selectsNoRow_of_active hp h1 h2 h3
      rw [fallBack hno, anythingElse, hp]
      exact congrArg _ (if_neg h0)
    · have hno := selectsNoRow_of_active hp h1 h2 h3
      rw [fallBack hno, anythingElse, hp]
      exact congrArg _ (if_pos (not_not.1 h0))
end

section
/-! SUPPORT. Proofs: the bytes of FB at and beyond RXBYTES cannot influence a dispatch (43_protocol_commands.md R187(a)). The decoder
sees the received bytes alone, and a command that answers from FB writes there what it sends. -/

namespace Sys2Proof.Machine

variable {s t v w : State} {n : Nat}

/-- `s` and `t` differ in FB alone, and agree on the first `n` bytes of it. -/
structure AgreeBelow (n : Nat) (s t : State) : Prop where
  butFb : SameButFb s t
  below : ∀ i < n, fbRead t i = fbRead s i

/-- Two dispatches of `n` received bytes have ended alike: in states that differ in FB alone and not in those bytes, and that send
the same bytes. -/
def SameAnswer (n : Nat) (s t : State) : Prop :=
  SameButFb s t ∧ (∀ i < n, fbRead t i = fbRead s i) ∧
    (s.txSrc = .fb → s.ctl.phase = .sTx → ∀ i < s.txLen, fbRead t i = fbRead s i)

theorem AgreeBelow.rxBytes_eq (h : AgreeBelow n s t) : t.rxBytes = s.rxBytes := by rw [h.butFb]

theorem AgreeBelow.statics_eq (h : AgreeBelow n s t) : t.statics = s.statics := by rw [h.butFb]

theorem AgreeBelow.ps_eq (h : AgreeBelow n s t) : t.ps = s.ps := by rw [h.butFb]

theorem AgreeBelow.ctl_eq (h : AgreeBelow n s t) : t.ctl = s.ctl := by rw [h.butFb]

/-- The received frame is the same (R21). -/
theorem AgreeBelow.received_eq (h : AgreeBelow s.rxBytes s t) : received t = received s := by
  have hrx := h.rxBytes_eq
  refine List.ext_getElem (by simp [received, hrx]) fun i hi hi' => ?_
  have hlt : i < s.rxBytes := hi'.trans_le (by simp [received])
  rw [← List.getD_eq_getElem _ 0 hi, ← List.getD_eq_getElem _ 0 hi', received_getD t i (by omega), received_getD s i hlt,
    h.below i hlt]

/-- Without a transmission there is nothing to send. -/
theorem AgreeBelow.endCycle_setPs (h : AgreeBelow n s t) (p : ProtState) :
    SameAnswer n (endCycle (s.setPs p)) (endCycle (t.setPs p)) := by
  refine ⟨by rw [h.butFb]; rfl, h.below, fun _ hx => ?_⟩
  rw [endCycle_ctl] at hx
  split at hx <;> cases hx

theorem AgreeBelow.anythingElse (h : AgreeBelow n s t) : SameAnswer n (anythingElse s) (anythingElse t) := by
  rw [anythingElse_eq, anythingElse_eq, h.ps_eq, h.rxBytes_eq]
  exact h.endCycle_setPs _

/-- A static frame is sent from no byte of FB. -/
theorem AgreeBelow.startTx {src : TxSrc} (h : AgreeBelow n s t) (hsrc : src ≠ .fb) (k : Nat) (after : Option ProtState) :
    SameAnswer n (startTx src k after s) (startTx src k after t) := by
  refine ⟨?_, h.below, fun hfb => absurd hfb hsrc⟩
  have hbytes : srcBytes t src = srcBytes s src := by
    cases src with
    | fb => exact absurd rfl hsrc
    | _ => simp only [srcBytes, h.statics_eq]
  rw [Machine.startTx, Machine.startTx, hbytes, h.butFb]
  rfl

/-- An answer from FB is sent from bytes that agree, if FB does below its length. -/
theorem AgreeBelow.answering {bytes : List Byte} (h : AgreeBelow n v w) (h' : AgreeBelow bytes.length v w) :
    SameAnswer n (answering .fb bytes none v) (answering .fb bytes none w) :=
  ⟨by rw [h.butFb]; rfl, h.below, fun _ _ => h'.below⟩

/-- What FB is filled with agrees, whatever was there before. -/
theorem AgreeBelow.fill (h : AgreeBelow n s t) {bs : List Byte} (hl : bs.length ≤ 64) {m : Nat}
    (hm : m ≤ n ∨ m ≤ bs.length) : AgreeBelow m (s.setFb (fbFill s.fb 0 bs)) (t.setFb (fbFill t.fb 0 bs)) := by
  refine ⟨by rw [h.butFb]; rfl, fun i hi => ?_⟩
  rw [fbRead_fill s hl, fbRead_fill t hl]
  split
  · rfl
  · exact h.below i (by omega)

/-- The byte written into FB[0] agrees, whatever was there before. -/
theorem AgreeBelow.fbWrite (h : AgreeBelow n s t) (b : Byte) {m : Nat} (hm : m ≤ n ∨ m ≤ 1) :
    AgreeBelow m (fbWrite 0 b s) (fbWrite 0 b t) := by
  refine ⟨by rw [h.butFb]; rfl, fun i hi => ?_⟩
  rw [fbRead_fbWrite, fbRead_fbWrite]
  split
  · rfl
  · exact h.below i (by omega)

theorem AgreeBelow.writeBlock (h : AgreeBelow n s t) (index : Nat) (d : List Byte) :
    AgreeBelow n (writeBlock index d s) (writeBlock index d t) :=
  ⟨by rw [h.butFb]; rfl, h.below⟩

/-- A command reads no byte of FB: its operands are in the instruction, and what it sends from FB it has written there. -/
theorem AgreeBelow.exec (h : AgreeBelow n s t) (i : Instr) :
    ∃ s' t', exec i s = .next s' ∧ exec i t = .next t' ∧ SameAnswer n s' t' := by
  by_cases ha : Accepted s.ps i
  · have ha' : Accepted t.ps i := h.ps_eq ▸ ha
    have hs := exec_of_accepted ha
    have ht := exec_of_accepted ha'
    cases i with
    | reqa => exact ⟨_, _, hs, ht, h.startTx (by simp) _ _⟩
    | wupa => exact ⟨_, _, hs, ht, h.startTx (by simp) _ _⟩
    | anticollCl1 => exact ⟨_, _, hs, ht, h.startTx (by simp) _ _⟩
    | anticollCl2 => exact ⟨_, _, hs, ht, h.startTx (by simp) _ _⟩
    | selectCl1 => exact ⟨_, _, hs, ht, h.startTx (by simp) _ _⟩
    | selectCl2 =>
      rw [reply, h.ps_eq] at ht
      exact ⟨_, _, hs, ht, h.startTx (by simp) _ _⟩
    | read block =>
      have hlen := withCrc_readData_length s block
      have hdata : readData t block = readData s block := by rw [h.butFb]; rfl
      have ht := exec_read_of_active block ha'
      rw [hdata] at ht
      exact ⟨_, _, exec_read_of_active block ha, ht,
        (h.fill (by omega) (.inl le_rfl)).answering (h.fill (by omega) (.inr le_rfl))⟩
    | write block rest =>
      by_cases hw : writeAccepted block rest = true
      · have h4 := h.writeBlock block.toNat (rest.take 4)
        exact ⟨_, _, exec_write_of_accepted ha hw, exec_write_of_accepted ha' hw,
          (h4.fbWrite _ (.inl le_rfl)).answering (h4.fbWrite _ (.inr le_rfl))⟩
      · exact ⟨_, _, exec_write_of_refused ha hw, exec_write_of_refused ha' hw,
          (h.fbWrite _ (.inl le_rfl)).answering (h.fbWrite _ (.inr le_rfl))⟩
    | hlta => exact ⟨_, _, hs, ht, h.endCycle_setPs _⟩
  · exact ⟨_, _, exec_of_not_accepted ha, exec_of_not_accepted (h.ps_eq ▸ ha), h.anythingElse⟩

theorem AgreeBelow.step (h : AgreeBelow s.rxBytes s t) (hc : s.ctl = .dispatch) :
    ∃ s' t', step s = .next s' ∧ step t = .next t' ∧ SameAnswer s.rxBytes s' t' := by
  have hc' := h.ctl_eq.trans hc
  have hframe : decodeFrame t.statics.hlta (received t) = decodeFrame s.statics.hlta (received s) := by
    rw [h.statics_eq, h.received_eq]
  cases hd : decodeFrame s.statics.hlta (received s) with
  | error e =>
    exact ⟨_, _, step_of_decodeFrame_error hc hd, step_of_decodeFrame_error hc' (hframe.trans hd), h.anythingElse⟩
  | ok i =>
    rw [step_of_decodeFrame_ok hc hd, step_of_decodeFrame_ok hc' (hframe.trans hd)]
    exact h.exec i

end Sys2Proof.Machine

open Sys2Proof Sys2Proof.Machine

/-- Settles O16: both dispatches decode the same frame, and its command ends alike. -/
theorem staleFrameBytesCannotInfluenceADispatch : Obligations.StaleFrameBytesCannotInfluenceADispatch := by
  intro s t hc hst hbelow
  obtain ⟨s', t', hs, ht, h⟩ := AgreeBelow.step ⟨hst, hbelow⟩ hc
  rw [hs, ht]
  exact h
end

section
/-! SUPPORT. Proofs: what no step but a dispatch and a host action can do (43_protocol_commands.md R187): storage, TXLOG and the
halted flag. -/

namespace Sys2Proof.Machine

variable {s u : State}

/-! ## Steps that reach neither storage nor TXLOG -/

/-- `u` has the storage and the TXLOG of `s`. -/
structure SameRecords (s u : State) : Prop where
  storageRef : u.storageRef = s.storageRef
  storage : u.storage = s.storage
  unbound : u.unbound = s.unbound
  txLog : u.txLog = s.txLog

theorem SameRecords.sameBytes (h : SameRecords s u) : SameBytes s u := fun ref off => by
  rw [byteAt, byteAt, h.storageRef, h.storage, h.unbound]

/-- Only the host and a dispatch reach storage or TXLOG. -/
theorem step_sameRecords (e : step s = .next u) (hhost : s.ctl ≠ .done) (hdisp : s.ctl ≠ .dispatch) : SameRecords s u := by
  rcases step_cases e with ⟨hc, -⟩ | ⟨-, e'⟩ | ⟨p, hc, -⟩ | ⟨-, rfl⟩ | ⟨hc, -⟩ | ⟨sym, second, hc, -⟩
  · exact absurd hc hhost
  · obtain ⟨-, _, _, _, rfl | rfl⟩ := stepCheck_cases e'
    · exact ⟨rfl, rfl, rfl, rfl⟩
    · exact ⟨rfl, rfl, rfl, rfl⟩
  · rw [decoderWritesOnlyItsRegisters s u p hc e]
    exact ⟨rfl, rfl, rfl, rfl⟩
  · obtain ⟨_, -, hu⟩ := stepCount_frame s
    rw [hu]
    exact ⟨rfl, rfl, rfl, rfl⟩
  · exact absurd hc hdisp
  · rw [(encoderWritesOnlyItsRegisters s u sym second hc e).1]
    exact ⟨rfl, rfl, rfl, rfl⟩

theorem anythingElse_sameRecords (s : State) : SameRecords s (anythingElse s) := by
  rw [anythingElse_eq]
  exact ⟨rfl, rfl, rfl, rfl⟩

/-! ## Storage -/

/-- Binding another region changes no byte of any region (R210, R266). -/
theorem byteAt_bindRegion (ref : Nat) (h : Regions.wf s.unbound = true) (ref' off : Nat) :
    byteAt (bindRegion ref s) ref' off = byteAt s ref' off := by
  unfold bindRegion
  split
  · rfl
  · rename_i hne
    simp only [byteAt]
    by_cases hr : ref' = ref
    · rw [if_pos hr, if_neg (by omega), hr]
    · rw [if_neg hr, Regions.read_write_other _ _ _ _ hr]
      by_cases hb : ref' = s.storageRef
      · rw [if_pos hb, hb, Regions.read_write_same _ _ _ h]
      · rw [if_neg hb, Regions.read_write_other _ _ _ _ hb]

/-- The host stores the one byte it names (R220). -/
theorem byteAt_hostStoreByte (ref off : Nat) (v : Byte) (hm : Memory.wf s.storage = true)
    (hr : Regions.wf s.unbound = true) (ref' off' : Nat) :
    byteAt (hostStoreByte ref off v s) ref' off' = if ref' = ref ∧ off' = off then v else byteAt s ref' off' := by
  have read_write {m : Memory} (hw : Memory.wf m = true) :
      Memory.read (Memory.write m off v) off' = if off' = off then v else Memory.read m off' := by
    split
    · rename_i ho
      rw [ho, Memory.read_write_same m off v hw]
    · exact Memory.read_write_other m off off' v ‹_›
  unfold hostStoreByte
  split
  · rename_i hb
    simp only [byteAt, setStorage_storageRef, setStorage_storage, setStorage_unbound, read_write hm, ← hb]
    by_cases h : ref' = ref
    · simp [h]
    · simp [h]
  · rename_i hb
    simp only [byteAt]
    by_cases h : ref' = ref
    · subst h
      rw [if_neg hb, if_neg hb, Regions.read_write_same _ _ _ hr, read_write (Regions.wf_read _ _ hr)]
      simp
    · simp [h, Regions.read_write_other _ _ _ _ h]

/-- Of the host's actions only a stored byte changes a byte of storage, and that one (R220). -/
theorem hostAct_changes_byte (h : Inv s) {a : HostCall} {ref off : Nat}
    (hne : byteAt (hostAct a s) ref off ≠ byteAt s ref off) :
    ∃ v, a = .storeByte ref off v ∧ byteAt (hostAct a s) ref off = v := by
  cases a with
  | initBlock ref' size => exact absurd (byteAt_bindRegion ref' h.unbound ref off) hne
  | serviceReader => exact absurd rfl hne
  | storeByte ref' off' v =>
    rw [hostAct, byteAt_hostStoreByte ref' off' v h.storage h.unbound] at hne ⊢
    split at hne
    · rename_i hat
      obtain ⟨rfl, rfl⟩ := hat
      exact ⟨v, rfl, if_pos ⟨rfl, rfl⟩⟩
    · exact absurd rfl hne

/-- Of the commands only an accepted WRITE changes a byte of storage, inside its block (R183, R219). -/
theorem Effect.changes_byte {i : Instr} (e : Effect i s u) (h : Memory.wf s.storage = true) {ref off : Nat}
    (hne : byteAt u ref off ≠ byteAt s ref off) :
    ∃ block rest, i = .write block rest ∧ s.ps.phase = .active ∧ writeAccepted block rest = true ∧
      ref = s.storageRef ∧ 4 * block.toNat ≤ off ∧ off < 4 * block.toNat + (rest.take 4).length ∧ off < s.storageSize ∧
      byteAt u ref off = (rest.take 4).getD (off - 4 * block.toNat) 0 := by
  cases e with
  | other => exact absurd ((anythingElse_sameRecords s).sameBytes ref off) hne
  | accepted block rest hi hp hw =>
    rw [byteAt_startTx, byteAt_fbWrite, byteAt_writeBlock _ _ s h] at hne ⊢
    split at hne
    · rename_i hat
      obtain ⟨hr, hlo, hhi, hs⟩ := hat
      exact ⟨block, rest, hi, hp, hw, hr, hlo, hhi, hs, if_pos ⟨hr, hlo, hhi, hs⟩⟩
    · exact absurd rfl hne
  | _ => exact absurd (by simp) hne

/-! ## TXLOG -/

/-- A transmission that begins appends its record (R160). -/
theorem startTx_appends {w : State} (src : TxSrc) (n : Nat) (after : Option ProtState) (hlog : w.txLog = s.txLog)
    (hsel : w.fdtSel = s.fdtSel) (hparams : w.params = s.params) :
    ∃ r : TxRecord, (startTx src n after w).txLog = s.txLog ++ [r] ∧ r.fdtSel = s.fdtSel ∧
      r.slots = slotsOfFrame s.params.paritySeed r.bytes := by
  rw [startTx_txLog, hlog, hsel, hparams]
  exact ⟨_, rfl, rfl, rfl⟩

/-- A command begins at most one transmission, with one record in TXLOG (R160, R187(d)). -/
theorem Effect.txLog {i : Instr} (e : Effect i s u) :
    u.txLog = s.txLog ∨ ∃ r : TxRecord, u.txLog = s.txLog ++ [r] ∧ r.fdtSel = s.fdtSel ∧
      r.slots = slotsOfFrame s.params.paritySeed r.bytes := by
  cases e with
  | other => exact .inl (anythingElse_sameRecords s).txLog
  | hlta => exact .inl rfl
  | _ => exact .inr (startTx_appends _ _ _ (by simp) (by simp) (by simp))

/-- Of the host's actions only `initialize` writes TXLOG, and it empties it (R261, R266). -/
theorem hostAct_txLog (a : HostCall) (s : State) :
    (hostAct a s).txLog = s.txLog ∨ (∃ ref size, a = .initBlock ref size) ∧ (hostAct a s).txLog = [] := by
  cases a with
  | initBlock ref size => exact .inr ⟨⟨ref, size, rfl⟩, rfl⟩
  | serviceReader => exact .inl rfl
  | storeByte ref off v =>
    obtain ⟨_, _, h⟩ := hostStoreByte_frame ref off v s
    exact .inl (by rw [hostAct, h])

/-! ## A dispatch, a host action, or neither -/

/-- A step at S_DISPATCH falls back, or is an effect of the command of a frame of one byte or more. -/
theorem effect_of_step (hc : s.ctl = .dispatch) (e : step s = .next u) :
    u = anythingElse s ∨ ∃ i, decodeFrame s.statics.hlta (received s) = .ok i ∧ s.rxBytes ≠ 0 ∧ Effect i s u := by
  obtain ⟨v, hv, hcases⟩ := stepDispatch_cases s
  cases hv.symm.trans ((step_of_dispatch hc).symm.trans e)
  exact hcases

/-- A step at rest is the host's next action, or with none listed the call of `serviceReader`. -/
theorem hostAct_of_step (hc : s.ctl = .done) (e : step s = .next u) :
    (∃ a q, s.hostIn = a :: q ∧ u = hostAct a { s with hostIn := q }) ∨ u = s.setCtl .check := by
  rw [step, hc] at e
  cases e
  exact (stepDone_cases s).imp id And.right

end Sys2Proof.Machine

open Sys2Proof Sys2Proof.Machine

/-- Settles O56: H follows PS, and of the rows of R189 only `initialize` and HLTA change it. -/
theorem haltedFlagIsSetByHltaAndClearedByInitialize : Obligations.HaltedFlagIsSetByHltaAndClearedByInitialize := by
  intro s u h e
  have moves (hne : u.ps.halted ≠ s.ps.halted) := protocolStateMovesOnlyAlongTheTable s u h e fun hu => hne (by rw [hu])
  refine ⟨fun hs hu => ?_, fun hs hu => ?_⟩
  · rcases moves (by simp [hs, hu]) with ⟨hc, -, hi⟩ | ⟨-, ⟨hp, -, -⟩ | ⟨-, -, hp⟩ | ⟨-, -, hp⟩⟩ |
      ⟨-, ⟨-, -, hp⟩ | ⟨-, -, -, hp⟩ | ⟨-, -, hp⟩⟩
    · exact ⟨hc, hi⟩
    · simp [hp] at hs
    · simp [hp] at hu
    · simp [hp, hs] at hu
    · simp [hp, hs] at hu
    · simp [hp, hs] at hu
    · simp [hp] at hu
  · rcases moves (by simp [hs, hu]) with ⟨-, hp, -⟩ | ⟨-, ⟨-, -, hp⟩ | ⟨hp, -, -⟩ | ⟨-, -, hp⟩⟩ |
      ⟨hc, ⟨-, -, hp⟩ | ⟨-, -, -, hp⟩ | ⟨hp, hd, -⟩⟩
    · simp [hp] at hu
    · simp [hp] at hu
    · simp [hp] at hs
    · simp [hp, hs] at hu
    · simp [hp, hs] at hu
    · simp [hp, hs] at hu
    · exact ⟨hc, hp, hd⟩

/-- Settles O57: of all steps only the dispatch of an accepted WRITE and a byte stored by the host change a byte of storage. -/
theorem storageChangesOnlyByAcceptedWriteOrHost : Obligations.StorageChangesOnlyByAcceptedWriteOrHost := by
  intro s u ref off h e hne
  by_cases hdisp : s.ctl = .dispatch
  · rcases effect_of_step hdisp e with rfl | ⟨i, hd, -, he⟩
    · exact absurd ((anythingElse_sameRecords s).sameBytes ref off) hne
    · obtain ⟨block, rest, rfl, hp, hw, hr, hlo, hhi, hs, hv⟩ := he.changes_byte h.storage hne
      have hlen := ((writeAccepted_iff block rest).1 hw).1
      have hcrc : crcOk (writeFrame block rest) = true := (Bool.and_eq_true _ _ ▸ hw : _ ∧ _).2
      rw [List.length_take] at hhi
      refine .inl ⟨hdisp, hp, hr, hs, block, rest, hd, hlen, hcrc, hlo, by omega, ?_⟩
      rw [hv, List.getD_eq_getElem?_getD, List.getD_eq_getElem?_getD, List.getElem?_take_of_lt (by omega)]
  · by_cases hhost : s.ctl = .done
    · rcases hostAct_of_step hhost e with ⟨a, q, hq, rfl⟩ | rfl
      · have h' : Inv { s with hostIn := q } := { h with }
        obtain ⟨v, rfl, hv⟩ := hostAct_changes_byte h' hne
        exact .inr ⟨hhost, v, q, hq, hv⟩
      · exact absurd rfl hne
    · exact absurd ((step_sameRecords e hhost hdisp).sameBytes ref off) hne

/-- Settles O59: of all steps only a dispatch appends to TXLOG, one record, and only `initialize` empties it. -/
theorem atMostOneFrameIsSentPerDispatch : Obligations.AtMostOneFrameIsSentPerDispatch := by
  intro s u e hne
  by_cases hdisp : s.ctl = .dispatch
  · rcases effect_of_step hdisp e with rfl | ⟨i, -, h0, he⟩
    · exact absurd (anythingElse_sameRecords s).txLog hne
    · exact .inl ⟨hdisp, h0, he.txLog.resolve_left hne⟩
  · by_cases hhost : s.ctl = .done
    · rcases hostAct_of_step hhost e with ⟨a, q, hq, rfl⟩ | rfl
      · obtain ⟨⟨ref, size, rfl⟩, hlog⟩ := (hostAct_txLog a { s with hostIn := q }).resolve_left hne
        exact .inr ⟨hhost, hlog, ref, size, q, hq⟩
      · exact absurd rfl hne
    · exact absurd (step_sameRecords e hhost hdisp).txLog hne
end

section
/-! SUPPORT. Proofs: the static frames that setup builds (44_service_and_storage.md R211), and the block accessors of the Storage
Accessor (R217 to R219). -/

namespace Sys2Proof.Machine

/-- Each of the four bytes of a block is read at its own offset (R53, R218). -/
theorem readBlock_getD (s : State) (index : Nat) {i : Nat} (hi : i < 4) :
    (readBlock s index).getD i 0 = memRead s (4 * index + i) := by
  interval_cases i <;> rfl

end Sys2Proof.Machine

open Sys2Proof Sys2Proof.Machine

/-- Settles O23: a block write is read at the offset of one of its bytes, and at any other. -/
theorem writeBlockChecksEachByte : Obligations.WriteBlockChecksEachByte := by
  intro s index d0 d1 d2 d3 h
  refine ⟨fun i hi hs => ?_, fun ref off hne => ?_, rfl⟩
  · rw [byteAt_writeBlock _ _ s h, if_pos ⟨rfl, Nat.le_add_right _ i, Nat.add_lt_add_left hi _, hs⟩, Nat.add_sub_cancel_left]
  · rw [byteAt_writeBlock _ _ s h]
    exact if_neg hne

/-- Settles O21: each byte of the block is read with its own range check. -/
theorem readBlockZeroFillsOutOfRange : Obligations.ReadBlockZeroFillsOutOfRange :=
  fun s index => ⟨rfl, fun _ hi => (readBlock_getD s index hi).trans (memRead_eq s _)⟩

/-- Settles O20: the frames with a CRC do not depend on the UID, and their check values are those of R107. -/
theorem staticFramesAreBuiltFromTheUid : Obligations.StaticFramesAreBuiltFromTheUid :=
  fun uid => ⟨rfl, rfl, rfl, withCrc_sakNc, withCrc_sakC, hlta_of_buildStatics uid⟩
end

section
/-! SUPPORT. Proofs: the host's actions, the entry of `serviceReader` and the count of empty frames (44_service_and_storage.md
R210 to R212, R220, R221; 70_reset_and_hazards.md R261, R266, R267). -/

namespace Sys2Proof.Machine

variable {s : State}

/-! ## The host -/

/-- At rest the host's next listed action is taken (R221). -/
theorem step_of_hostIn {a : HostCall} {q : List HostCall} (hc : s.ctl = .done) (hq : s.hostIn = a :: q) :
    step s = .next (hostAct a { s with hostIn := q }) := by
  simp only [step, hc, stepDone, hq]

/-- With no action listed the host calls `serviceReader` (R267). -/
theorem step_of_hostIn_nil (hc : s.ctl = .done) (hq : s.hostIn = []) : step s = .next (s.setCtl .check) := by
  simp only [step, hc, stepDone, hq]
  rfl

@[simp] theorem bindRegion_storageRef (ref : Nat) (s : State) : (bindRegion ref s).storageRef = ref := by
  unfold bindRegion
  split
  · exact Eq.symm ‹_›
  · rfl

/-- `initialize` writes the registers of R261, and else only what belongs to storage. -/
theorem initializeBlock_frame (ref size : Nat) (s : State) :
    ∃ m r, initializeBlock ref size s = { s with
      storageRef := ref, storageSize := size, statics := buildStatics s.params.uid, ps := ⟨.idle, false⟩, rxBytes := 0,
      fdtSel := false, hbitPos := 0, bytePos := 0, modLine := false, initDone := true, txLog := [],
      storage := m, unbound := r } := by
  obtain ⟨_, m, r, h⟩ := bindRegion_frame ref s
  have href := bindRegion_storageRef ref s
  rw [h] at href
  obtain rfl := href
  exact ⟨m, r, by rw [initializeBlock, h]⟩

/-! ## The entry and the count -/

/-- The entry of `serviceReader` goes by the carrier's answer (R212(a), (b)). -/
theorem step_of_check (hc : s.ctl = .check) (hi : s.initDone = true) :
    step s = .next (afterCarrier (btpCarrier s).1 (btpCarrier s).2) := by
  simp only [step, hc, stepCheck, hi, if_true]

theorem afterCarrier_true (s : State) : afterCarrier true s = { s with retry := 8, ctl := .rx .drain } := rfl

theorem afterCarrier_false (s : State) : afterCarrier false s = { s with ctl := .done } := rfl

/-- The question for the carrier is recorded with its answer, and else writes only the port's answers to come (R214, R252). -/
theorem btpCarrier_records (s : State) :
    (btpCarrier s).2 = { s with
      carrierIn := (btpCarrier s).2.carrierIn, freeCount := (btpCarrier s).2.freeCount,
      portLog := .carrier (btpCarrier s).1 :: s.portLog } := by
  unfold btpCarrier
  split <;> rfl

/-- The next listed answer is the port's (R252). -/
theorem btpCarrier_of_carrierIn {b : Bool} {q : List Bool} (h : s.carrierIn = b :: q) :
    btpCarrier s = (b, logPort (.carrier b) { s with carrierIn := q }) := by
  simp only [btpCarrier, h]

theorem step_of_count (hc : s.ctl = .count) : step s = .next (stepCount s) := by
  simp only [step, hc]

/-- RETRY is counted down for an empty frame, and the dispatcher is next in any case (R212(d), (e)). -/
theorem stepCount_eq (s : State) :
    stepCount s = { s with retry := if s.rxBytes = 0 then s.retry - 1 else s.retry, ctl := .dispatch } := by
  unfold stepCount
  split <;> rfl

end Sys2Proof.Machine

open Sys2Proof Sys2Proof.Machine

/-- Settles O45: `initialize` writes the values of R261, and binding a region moves bytes without changing any. -/
theorem initializeSetsTheResetValues : Obligations.InitializeSetsTheResetValues := by
  intro s ref size q hc hq
  refine ⟨_, step_of_hostIn hc hq, ?_⟩
  have hbytes (h : Inv s) : SameBytes s (hostAct (.initBlock ref size) { s with hostIn := q }) :=
    byteAt_bindRegion (s := { s with hostIn := q }) ref h.unbound
  obtain ⟨m, r, hu⟩ := initializeBlock_frame ref size { s with hostIn := q }
  rw [hostAct, hu] at hbytes ⊢
  exact ⟨rfl, rfl, rfl, rfl, rfl, rfl, rfl, rfl, rfl, rfl, rfl, rfl, hbytes⟩

/-- Settles O46: a stored byte is that byte of its region and no other, and a call of `serviceReader` only moves the control
phase. -/
theorem hostActionsStoreBytesAndCallTheService : Obligations.HostActionsStoreBytesAndCallTheService := by
  intro s h hc
  refine ⟨fun ref off v q hq => ⟨_, step_of_hostIn hc hq, ?_⟩, fun q hq => step_of_hostIn hc hq, step_of_hostIn_nil hc⟩
  have hbyte := byteAt_hostStoreByte (s := { s with hostIn := q }) ref off v h.storage h.unbound
  refine ⟨(hbyte ref off).trans (if_pos ⟨rfl, rfl⟩), fun ref' off' hne => (hbyte ref' off').trans (if_neg hne), ?_⟩
  obtain ⟨m, r, hu⟩ := hostStoreByte_frame ref off v { s with hostIn := q }
  rw [hostAct, hu]

/-- Settles O47: the entry asks for the carrier and goes by the answer. -/
theorem serviceReaderTestsTheCarrierAtEntry : Obligations.ServiceReaderTestsTheCarrierAtEntry := by
  rintro s _ hc hi rfl
  refine ⟨fun h => ?_, fun h => ?_, btpCarrier_records s⟩
  · rw [step_of_check hc hi, h, afterCarrier_true]
  · rw [step_of_check hc hi, h, afterCarrier_false]

/-- Settles O48: the entry looks at INIT_DONE before it asks for the carrier. -/
theorem serviceReaderBeforeInitializeIsRefused : Obligations.ServiceReaderBeforeInitializeIsRefused := by
  intro s hc hi
  simp [step, hc, stepCheck, hi]

/-- Settles O49: the step after the decoder is `stepCount`, written as one update. -/
theorem retryCountsEmptyFramesOnly : Obligations.RetryCountsEmptyFramesOnly :=
  fun s hc => (step_of_count hc).trans (congrArg _ (stepCount_eq s))
end

section
/-! SUPPORT. Proofs: a service call that hears nothing (44_service_and_storage.md R213, R216). A silent wait for the start edge
counts down to "no frame", a decode with its dispatch is one cycle with RETRY one less, and RETRY bounds the cycles. -/

namespace Sys2Proof.Machine

variable {s u : State}

/-- The port answers Quiet for ever, and the wait for the start edge has a period to count (R7, R221). -/
structure Silent (s : State) : Prop where
  edgeIn : s.edgeIn = []
  quietAfter : s.quietAfter = true
  timeout : 1 ≤ s.params.rxTimeoutBits

/-- PS after an empty frame: READY falls back to IDLE, H is kept (R81, R181, R186). -/
def fallBack (p : ProtState) : ProtState := if p.phase = .ready then ⟨.idle, p.halted⟩ else p

theorem fallBack_fallBack (p : ProtState) : fallBack (fallBack p) = fallBack p := by
  by_cases h : p.phase = .ready
  · simp [fallBack, h]
  · simp [fallBack, h]

/-- `u` is `s` but for what silent cycles write: no frame, PS fallen back, RETRY, the decoder's count and answer, the record of
the port and the control phase. -/
def Unheard (s u : State) : Prop :=
  ∃ c r n l k, u = { s with
    rxC := c, rxR := r, rxBytes := 0, ps := fallBack s.ps, retry := n, portLog := l, ctl := k }

theorem Unheard.trans {v : State} (h : Unheard s u) (h' : Unheard u v) : Unheard s v := by
  obtain ⟨_, _, _, _, _, rfl⟩ := h
  obtain ⟨c, r, n, l, k, rfl⟩ := h'
  exact ⟨c, r, n, l, k, by simp only [fallBack_fallBack]⟩

theorem Unheard.silent (h : Unheard s u) (hs : Silent s) : Silent u := by
  obtain ⟨_, _, _, _, _, rfl⟩ := h
  exact ⟨hs.edgeIn, hs.quietAfter, hs.timeout⟩

theorem Unheard.params (h : Unheard s u) : u.params = s.params := by
  obtain ⟨_, _, _, _, _, rfl⟩ := h
  rfl

/-- The wait for quiet is over with its first answer (R123). -/
theorem Silent.step_quiet (hs : Silent s) (hc : s.ctl = .rx .quiet) :
    step s = .next { s with
      rxR := .quiet, rxC := s.params.rxTimeoutBits, ctl := .rx .start,
      portLog := .waitEdge s.params.tBit .quiet :: s.portLog } := by
  rw [step_of_rx hc, stepRx, btpWaitEdge_silent _ s hs.edgeIn hs.quietAfter, rxAfterQuiet_of_quiet rfl]
  rfl

/-- A quiet bit period in the wait for the start edge is one count less, the last of them "no frame" (R124). -/
theorem Silent.step_start (hs : Silent s) (hc : s.ctl = .rx .start) {c : Nat} (hn : s.rxC = c + 1) :
    step s = .next { s with
      rxR := .quiet, rxC := c, rxBytes := if c = 0 then 0 else s.rxBytes, ctl := if c = 0 then .count else .rx .start,
      portLog := .waitEdge s.params.tBit .quiet :: s.portLog } := by
  rw [step_of_rx hc, stepRx, btpWaitEdge_silent _ s hs.edgeIn hs.quietAfter, rxAfterStart_of_quiet rfl]
  rcases rxStartQuiet_cases (logPort (.waitEdge s.params.tBit .quiet) { s with rxR := .quiet }) with ⟨h0, e⟩ | ⟨h0, e⟩
  · simp only [logPort_rxC, hn, Nat.add_sub_cancel] at h0
    rw [e, if_pos h0, if_pos h0]
    simp [hn, logPort]
  · simp only [logPort_rxC, hn, Nat.add_sub_cancel] at h0
    rw [e, if_neg h0, if_neg h0]
    simp [hn, logPort, hc]

/-- The silent wait for the start edge lasts as many bit periods as it counts, and returns no frame (R124). -/
theorem Silent.run_start (hs : Silent s) (hc : s.ctl = .rx .start) {c : Nat} (hn : s.rxC = c + 1) :
    ∃ l, Runs (c + 1) s { s with rxR := .quiet, rxC := 0, rxBytes := 0, ctl := .count, portLog := l } := by
  induction c generalizing s with
  | zero => exact ⟨_, .of_step (hs.step_start hc hn)⟩
  | succ c ih =>
    have hstep := hs.step_start hc hn
    rw [if_neg c.succ_ne_zero, if_neg c.succ_ne_zero] at hstep
    obtain ⟨l, hl⟩ := ih (s := { s with
        rxR := .quiet, rxC := c + 1, ctl := .rx .start, portLog := .waitEdge s.params.tBit .quiet :: s.portLog })
      ⟨hs.edgeIn, hs.quietAfter, hs.timeout⟩ rfl rfl
    exact ⟨l, runs_succ_iff.2 ⟨_, hstep, hl⟩⟩

/-- A silent decode: the drain, one answer in the wait for quiet, and the count of the wait for the start edge (R137). -/
theorem Silent.run_decode (hs : Silent s) (hc : s.ctl = .rx .drain) :
    ∃ l, Runs (s.params.rxTimeoutBits + 2) s
      { s with rxR := .quiet, rxC := 0, rxBytes := 0, ctl := .count, portLog := l } := by
  obtain ⟨c, ht⟩ := Nat.exists_eq_add_of_le' hs.timeout
  have hdrain : step s = .next ((btpDrain s).setCtl (.rx .quiet)) := step_of_rx hc
  have hs1 : Silent ((btpDrain s).setCtl (.rx .quiet)) := ⟨hs.edgeIn, hs.quietAfter, hs.timeout⟩
  have hquiet := hs1.step_quiet rfl
  obtain ⟨l, hl⟩ := Silent.run_start (s := { (btpDrain s).setCtl (.rx .quiet) with
      rxR := .quiet, rxC := s.params.rxTimeoutBits, ctl := .rx .start,
      portLog := .waitEdge s.params.tBit .quiet :: (btpDrain s).portLog })
    ⟨hs.edgeIn, hs.quietAfter, hs.timeout⟩ rfl ht
  rw [ht]
  exact ⟨l, runs_succ_iff.2 ⟨_, hdrain, runs_succ_iff.2 ⟨_, hquiet, hl⟩⟩⟩

/-- No frame is no command (R81). -/
theorem step_of_no_frame (hc : s.ctl = .dispatch) (h0 : s.rxBytes = 0) : step s = .next (anythingElse s) := by
  refine step_of_decodeFrame_error (e := .emptyFrame) hc ?_
  rw [received, h0, List.take_zero, decodeFrame_nil]

/-- An empty frame ends the cycle with PS fallen back. -/
theorem anythingElse_of_no_frame (h0 : s.rxBytes = 0) : anythingElse s = endCycle (s.setPs (fallBack s.ps)) := by
  simp [anythingElse_eq, h0, fallBack]

/-- A silent cycle: the decode, the count of RETRY and the dispatch of the empty frame (R212(c) to (e)). -/
theorem Silent.exists_run_cycle (hs : Silent s) (hc : s.ctl = .rx .drain) :
    ∃ u, Runs (s.params.rxTimeoutBits + 4) s u ∧ Unheard s u ∧ u.retry = s.retry - 1 ∧ CycleOver u := by
  obtain ⟨l, hdecode⟩ := hs.run_decode hc
  have hcount := step_of_count (s := { s with rxR := .quiet, rxC := 0, rxBytes := 0, ctl := .count, portLog := l }) rfl
  rw [stepCount_eq, if_pos rfl] at hcount
  have hdispatch := step_of_no_frame (s := { s with
    rxR := .quiet, rxC := 0, rxBytes := 0, retry := s.retry - 1, ctl := .dispatch, portLog := l }) rfl rfl
  rw [anythingElse_of_no_frame rfl] at hdispatch
  exact ⟨_, hdecode.trans (runs_succ_iff.2 ⟨_, hcount, .of_step hdispatch⟩), ⟨_, _, _, _, _, rfl⟩, rfl,
    cycleOver_endCycle _⟩

/-- The silent cycles of a call: as many as RETRY counts, and then the block is at rest (R212, R213). -/
theorem Silent.exists_run_cycles {n : Nat} (hs : Silent s) (hc : s.ctl = .rx .drain) (hr : s.retry = n + 1) :
    ∃ u, Runs ((n + 1) * (s.params.rxTimeoutBits + 4)) s u ∧ Unheard s u ∧ u.ctl = .done ∧ u.retry = 0 := by
  induction n generalizing s with
  | zero =>
    obtain ⟨u, hrun, hu, hretry, hover⟩ := hs.exists_run_cycle hc
    rw [Nat.zero_add, Nat.one_mul]
    exact ⟨u, hrun, hu, hover.resolve_left fun h => h.2 (by rw [hretry, hr])⟩
  | succ n ih =>
    obtain ⟨v, hrun, hv, hretry, hover⟩ := hs.exists_run_cycle hc
    rw [hr, Nat.add_sub_cancel] at hretry
    obtain ⟨hcv, -⟩ := hover.resolve_right fun h => n.succ_ne_zero (hretry.symm.trans h.2)
    obtain ⟨u, hrun', hu, hrest⟩ := ih (hv.silent hs) hcv hretry
    rw [hv.params] at hrun'
    refine ⟨u, ?_, hv.trans hu, hrest⟩
    rw [Nat.succ_mul, Nat.add_comm]
    exact hrun.trans hrun'

end Sys2Proof.Machine

open Sys2Proof Sys2Proof.Machine

/-- Settles O50: the entry loads RETRY with 8, and each of the eight silent cycles takes it down by one. -/
theorem silentCallReturnsAfterEightTimeouts : Obligations.SilentCallReturnsAfterEightTimeouts := by
  intro s q hc hi ht hcarrier hedge hquiet
  have hstep := step_of_check hc hi
  rw [btpCarrier_of_carrierIn hcarrier, afterCarrier_true] at hstep
  obtain ⟨u, hrun, hu, hdone, hretry⟩ := Silent.exists_run_cycles (n := 7)
    (s := { logPort (.carrier true) { s with carrierIn := q } with retry := 8, ctl := .rx .drain })
    ⟨hedge, hquiet, ht⟩ rfl rfl
  refine ⟨u, (Runs.of_step hstep).trans hrun, hdone, hretry, ?_⟩
  obtain ⟨_, _, _, _, _, rfl⟩ := hu
  exact ⟨rfl, rfl, fun _ _ => rfl, rfl, rfl, rfl⟩
end

section
/-! SUPPORT. Proofs: what the Bit-Timing Port answers (R252, R254), and which steps end in no next state: none faults, and the
refusals of 60_exceptions.md R240 are those of the decoder's overrun and of a call before `initialize`. -/

namespace Sys2Proof.Machine

variable {s : State}

/-! ## The port -/

/-- `waitEdge` is recorded with its answer, and else writes the answer and the port's answers to come (R214, R254). -/
theorem btpWaitEdge_records (d : Nat) (s : State) :
    btpWaitEdge d s = { s with
      rxR := (btpWaitEdge d s).rxR, edgeIn := (btpWaitEdge d s).edgeIn, freeCount := (btpWaitEdge d s).freeCount,
      portLog := .waitEdge d (btpWaitEdge d s).rxR :: s.portLog } := by
  unfold btpWaitEdge
  split
  · rfl
  · rfl
  · split <;> rfl

/-- Beyond the listed answers, and without silence, a free value is made the answer. -/
theorem btpWaitEdge_free (d : Nat) (h : s.edgeIn = []) (hq : s.quietAfter = false) :
    btpWaitEdge d s = logPort (.waitEdge d (freeAnswer d (Config.freeEdge s.freeCount)))
      { s with rxR := freeAnswer d (Config.freeEdge s.freeCount), freeCount := s.freeCount + 1 } := by
  simp [btpWaitEdge, h, hq]

/-- A listed answer, or silence, uses up no free value. -/
theorem btpWaitEdge_freeCount (d : Nat) (h : s.edgeIn ≠ [] ∨ s.quietAfter = true) :
    (btpWaitEdge d s).freeCount = s.freeCount := by
  unfold btpWaitEdge
  split
  · rfl
  · rfl
  · rename_i he
    rw [if_pos (h.resolve_left (absurd he))]
    rfl

/-- A free value is reported as an edge where it is one within the deadline. -/
theorem freeAnswer_eq_edge_iff {d t : Nat} {o : Option Nat} : freeAnswer d o = .edge t ↔ o = some t ∧ t ≤ d := by
  cases o with
  | none => simp [freeAnswer]
  | some t' =>
    by_cases h : t' ≤ d
    · simp only [freeAnswer, answerBy, if_pos h, PortAnswer.edge.injEq, Option.some.injEq]
      exact ⟨fun e => ⟨e, e ▸ h⟩, And.left⟩
    · simp only [freeAnswer, answerBy, if_neg h, Option.some.injEq]
      exact ⟨nofun, fun ⟨e, ht⟩ => absurd (e ▸ ht) h⟩

/-- Beyond the listed answers a free value is the carrier's (R252). -/
theorem btpCarrier_free (h : s.carrierIn = []) :
    btpCarrier s = (Config.freeCarrier s.freeCount,
      logPort (.carrier (Config.freeCarrier s.freeCount)) { s with freeCount := s.freeCount + 1 }) := by
  simp only [btpCarrier, h]

/-! ## Steps without a next state -/

/-- The decoder is refused only as an overrun, inside a frame (R134). -/
theorem stepRx_outcome (p : RxPoint) (s : State) :
    (∃ u, stepRx p s = .next u) ∨ (p = .frame ∧ stepRx p s = .refused .rxOverrun) := by
  cases p with
  | drain => exact .inl ⟨_, rfl⟩
  | quiet => exact .inl ⟨_, rfl⟩
  | start => exact .inl ⟨_, rfl⟩
  | frame =>
    cases hr : (btpWaitEdge (th3 s.params) s).rxR with
    | quiet => exact .inl ⟨_, rxAfterFrame_of_quiet hr⟩
    | edge t =>
      rcases rxEdge_frame t (btpWaitEdge (th3 s.params) s) with ⟨_, _, _, e⟩ | e
      · exact .inl ⟨_, (rxAfterFrame_of_edge hr).trans e⟩
      · exact .inr ⟨rfl, (rxAfterFrame_of_edge hr).trans e⟩

/-- A step ends in a next state, or is one of two refusals, each at its own place (R240). -/
theorem step_outcome (s : State) :
    (∃ u, step s = .next u) ∨ (step s = .refused .rxOverrun ∧ s.ctl = .rx .frame) ∨
      (step s = .refused .notInitialized ∧ s.ctl = .check ∧ s.initDone = false) := by
  cases hc : s.ctl with
  | done => exact .inl ⟨stepDone s, by simp only [step, hc]⟩
  | check =>
    cases hi : s.initDone with
    | true => exact .inl ⟨_, step_of_check hc hi⟩
    | false => exact .inr (.inr ⟨serviceReaderBeforeInitializeIsRefused s hc hi, rfl, rfl⟩)
  | rx p =>
    rw [step_of_rx hc]
    rcases stepRx_outcome p s with ⟨u, h⟩ | ⟨rfl, h⟩
    · exact .inl ⟨u, h⟩
    · exact .inr (.inl ⟨h, rfl⟩)
  | count => exact .inl ⟨_, step_of_count hc⟩
  | dispatch =>
    obtain ⟨u, h, -⟩ := stepDispatch_cases s
    exact .inl ⟨u, (step_of_dispatch hc).trans h⟩
  | tx sym second => exact .inl ⟨_, step_of_tx hc⟩

end Sys2Proof.Machine

open Sys2Proof Sys2Proof.Machine

/-- Settles O60, by the three outcomes of a step; the two refusals need no premise on the state. -/
theorem onlyTheListedRefusalsOccur : Obligations.OnlyTheListedRefusalsOccur := by
  intro s
  rcases step_outcome s with ⟨u, h⟩ | ⟨h, hc⟩ | ⟨h, hc⟩
  · rw [h]
    exact ⟨nofun, nofun⟩
  · rw [h]
    exact ⟨nofun, fun _ _ hr => .inl ⟨by cases hr; rfl, hc⟩⟩
  · rw [h]
    exact ⟨nofun, fun _ _ hr => .inr ⟨by cases hr; rfl, hc⟩⟩

/-- Settles O36: the answer is bounded by the deadline, and the frame is that of `btpWaitEdge_records`. -/
theorem reportedEdgesLieWithinTheDeadline : Obligations.ReportedEdgesLieWithinTheDeadline := by
  intro d s
  have hlog := congrArg State.portLog (btpWaitEdge_records d s)
  refine ⟨fun t => edge_le_of_btpWaitEdge, hlog, ?_⟩
  rw [hlog]
  exact btpWaitEdge_records d s

/-- Settles O37, by where the answer comes from: the list, silence, or a free value. -/
theorem portAnswersAreListedThenSilentOrFree : Obligations.PortAnswersAreListedThenSilentOrFree := by
  refine fun d s => ⟨fun t q he ht => ?_, fun t q he ht => ?_, fun q he => ?_, btpWaitEdge_freeCount d, fun he hq => ?_,
    fun he hq => ?_, fun b q hb => ?_, fun hb => ?_⟩
  · rw [btpWaitEdge_edge d t q s he ht]
    exact ⟨rfl, rfl⟩
  · rw [btpWaitEdge_later d t q s he ht]
    exact ⟨rfl, rfl⟩
  · rw [btpWaitEdge_quiet d q s he]
    exact ⟨rfl, rfl⟩
  · rw [btpWaitEdge_silent d s he hq]
    exact ⟨rfl, he⟩
  · rw [btpWaitEdge_free d he hq]
    exact ⟨he, rfl, fun _ => freeAnswer_eq_edge_iff⟩
  · rw [btpCarrier_of_carrierIn hb]
    exact ⟨rfl, rfl, rfl⟩
  · rw [btpCarrier_free hb]
    exact ⟨rfl, hb, rfl⟩
end

section
/-! SUPPORT. Proofs: the reset state (70_reset_and_hazards.md R261), and that a service call returns under A1 and A2 (R276). A
rank counts the decodes still to come, then the place in the cycle, then what a wait or a transmission has still to do; every
step of a call but an answered edge lowers it, so a call that never ended would be a run of edges without end. -/

namespace Sys2Proof.Machine

variable {s u : State}

/-! ## Reset -/

theorem inv_reset : Inv State.reset where
  params := ⟨Nat.le_add_right 8 _, Nat.le_add_right 1 _⟩
  storage := rfl
  unbound := rfl
  bound := rfl
  built _ := rfl
  started _ := rfl
  rxBytes := Nat.zero_le _
  hbitPos := Nat.zero_le _
  bytePos := Nat.succ_pos 63
  rxT := Nat.zero_le _
  rxE := Nat.zero_le _
  rxC := Nat.zero_le _
  waiting := nofun
  retry := Nat.zero_le _
  looping := nofun
  released _ := rfl
  sending := nofun
  sendingByte := nofun
  settled _ := rfl
  owed := nofun

/-! ## The rank of a state in a call -/

/-- How many decodes the call still makes, the current one included, if every frame from here on is empty. One under way with
RETRY = 0 is the last. -/
def decodesLeft (s : State) : Nat :=
  match s.ctl with
  | .check => Config.retryInit
  | .rx _ => max 1 s.retry
  | .count => max 1 s.retry
  | .done => s.retry
  | .dispatch => s.retry
  | .tx _ _ => s.retry

/-- The places of a cycle of the service loop from its end backwards, the cycle taken to begin at the dispatcher: so that it
begins where RETRY has just been counted. -/
def Ctl.placesLeft : Ctl → Nat
  | .done => 6
  | .check => 6
  | .dispatch => 6
  | .tx _ _ => 5
  | .rx .drain => 4
  | .rx .quiet => 3
  | .rx .start => 2
  | .rx .frame => 1
  | .count => 0

/-- How many slots `txManchester` has still to drive from a symbol half on, whether or not its buffer holds the bytes
(R158): 18 for each byte, 2 for each bit. -/
def emitsLeft (sym : TxSym) (second : Bool) (s : State) : Nat :=
  match sym with
  | .soc => 22 + 18 * (s.txLen - 1) - second.toNat
  | .bit => 6 + 2 * (7 - s.txK) + 18 * (s.txLen - s.txI - 1) - second.toNat
  | .parity => 4 + 18 * (s.txLen - s.txI - 1) - second.toNat
  | .eoc => 2 - second.toNat

/-- What is left to do at the present place: quiet periods of the wait for the start edge, slots of a transmission. -/
def workLeft (s : State) : Nat :=
  match s.ctl with
  | .rx .start => s.rxC
  | .tx sym second => emitsLeft sym second s
  | _ => 0

/-- The rank of a state in a call, ordered by the decodes left, then the places left in the cycle, then the work left at the
place. -/
def callRank (s : State) : ℕ ×ₗ ℕ ×ₗ ℕ := toLex (decodesLeft s, toLex (s.ctl.placesLeft, workLeft s))

theorem callRank_lt_of_decodesLeft (h : decodesLeft u < decodesLeft s) : callRank u < callRank s :=
  Prod.Lex.toLex_lt_toLex.2 (.inl h)

theorem callRank_lt_of_placesLeft (hd : decodesLeft u = decodesLeft s) (h : u.ctl.placesLeft < s.ctl.placesLeft) :
    callRank u < callRank s :=
  Prod.Lex.toLex_lt_toLex.2 (.inr ⟨hd, Prod.Lex.toLex_lt_toLex.2 (.inl h)⟩)

theorem callRank_lt_of_workLeft (hd : decodesLeft u = decodesLeft s) (hp : u.ctl.placesLeft = s.ctl.placesLeft)
    (h : workLeft u < workLeft s) : callRank u < callRank s :=
  Prod.Lex.toLex_lt_toLex.2 (.inr ⟨hd, Prod.Lex.toLex_lt_toLex.2 (.inr ⟨hp, h⟩)⟩)

theorem callRank_eq (hd : decodesLeft u = decodesLeft s) (hc : u.ctl = s.ctl) (hw : workLeft u = workLeft s) :
    callRank u = callRank s := by
  rw [callRank, callRank, hd, hc, hw]

/-! ## The steps that lower the rank -/

theorem stepCheck_callRank_lt (hc : s.ctl = .check) (e : stepCheck s = .next u) (hu : u.ctl ≠ .done) :
    callRank u < callRank s := by
  obtain ⟨-, _, _, _, rfl | rfl⟩ := stepCheck_cases e
  · exact callRank_lt_of_placesLeft (by simp [decodesLeft, hc, Config.retryInit]) (by simp [hc, Ctl.placesLeft])
  · exact absurd rfl hu

theorem stepCount_callRank_lt (hc : s.ctl = .count) (h0 : s.rxBytes = 0) : callRank (stepCount s) < callRank s := by
  refine callRank_lt_of_decodesLeft ?_
  rw [stepCount_eq, if_pos h0]
  simp only [decodesLeft, hc]
  omega

/-- The end of a cycle that leads to another decode lowers the rank. -/
theorem CycleOver.callRank_lt (h : CycleOver u) (hu : u.ctl ≠ .done) (hr : u.retry = decodesLeft s)
    (hp : 4 < s.ctl.placesLeft) : callRank u < callRank s := by
  obtain ⟨hc, h0⟩ := h.resolve_right fun h => hu h.1
  refine callRank_lt_of_placesLeft ?_ (by rwa [hc])
  rw [← hr]
  simp only [decodesLeft, hc]
  omega

@[simp] theorem anythingElse_retry (s : State) : (anythingElse s).retry = s.retry := by
  rw [anythingElse_eq, endCycle_retry, setPs_retry]

theorem Effect.retry_eq {i : Instr} (e : Effect i s u) : u.retry = s.retry := by
  cases e with
  | _ => simp

/-- The dispatcher leaves RETRY to the count before it (R212(d)). -/
theorem stepDispatch_retry (e : stepDispatch s = .next u) : u.retry = s.retry := by
  obtain ⟨v, hv, hcase⟩ := stepDispatch_cases s
  obtain rfl : v = u := by simpa [hv] using e
  rcases hcase with rfl | ⟨i, -, -, he⟩
  · exact anythingElse_retry s
  · exact he.retry_eq

theorem stepDispatch_callRank_lt (hc : s.ctl = .dispatch) (e : stepDispatch s = .next u) (hu : u.ctl ≠ .done) :
    callRank u < callRank s := by
  have hr := stepDispatch_retry e
  rcases stepDispatch_transmits_or_cycleOver e with htx | hover
  · exact callRank_lt_of_placesLeft (by simp [decodesLeft, hc, htx, hr]) (by simp [hc, htx, Ctl.placesLeft])
  · exact hover.callRank_lt hu (by simp [decodesLeft, hc, hr]) (by simp [hc, Ctl.placesLeft])

@[simp] theorem emit_txLen (v : Bool) (s : State) : (emit v s).txLen = s.txLen := rfl

/-- A slot but the last leads to another of the same transmission, with fewer to drive (R158). -/
theorem stepTx_emitsLeft {sym : TxSym} {second : Bool} (h : ¬ (sym = .eoc ∧ second = true)) (s : State) :
    ∃ sym' second', (stepTx sym second s).ctl = .tx sym' second' ∧
      emitsLeft sym' second' (stepTx sym second s) < emitsLeft sym second s := by
  match sym, second with
  | .soc, false => exact ⟨_, _, rfl, by simp [emitsLeft, stepTx]⟩
  | .soc, true => exact ⟨_, _, rfl, by simp [emitsLeft, stepTx, startByte]⟩
  | .bit, false => exact ⟨_, _, rfl, by simp [emitsLeft, stepTx]⟩
  | .bit, true =>
    rw [stepTx]
    by_cases hk : s.txK < 7
    · rw [afterBit_of_lt (s := emit _ s) hk]
      exact ⟨_, _, rfl, by simp [emitsLeft]; omega⟩
    · rw [afterBit_of_not_lt (s := emit _ s) hk]
      exact ⟨_, _, rfl, by simp [emitsLeft]; omega⟩
  | .parity, false => exact ⟨_, _, rfl, by simp [emitsLeft, stepTx]⟩
  | .parity, true =>
    rw [stepTx, afterParity]
    split
    · rename_i hi
      rw [emit_txI, emit_txLen] at hi
      exact ⟨_, _, rfl, by simp [emitsLeft, startByte]; omega⟩
    · exact ⟨_, _, rfl, by simp [emitsLeft]; omega⟩
  | .eoc, false => exact ⟨_, _, rfl, by simp [emitsLeft]⟩
  | .eoc, true => exact absurd ⟨rfl, rfl⟩ h

theorem stepTx_retry (sym : TxSym) (second : Bool) (s : State) : (stepTx sym second s).retry = s.retry := by
  rcases stepTx_cases sym second s with ⟨-, -, e⟩ | ⟨_, _, _, _, _, _, e, -⟩
  · rw [e]; rfl
  · rw [e]; rfl

theorem stepTx_callRank_lt {sym : TxSym} {second : Bool} (hc : s.ctl = .tx sym second)
    (hu : (stepTx sym second s).ctl ≠ .done) : callRank (stepTx sym second s) < callRank s := by
  have hr := stepTx_retry sym second s
  by_cases hlast : sym = .eoc ∧ second = true
  · obtain ⟨rfl, rfl⟩ := hlast
    exact (cycleOver_finishCommand (emit false s)).callRank_lt hu (hr.trans (by simp [decodesLeft, hc]))
      (by simp [hc, Ctl.placesLeft])
  · obtain ⟨sym', second', hc', hlt⟩ := stepTx_emitsLeft hlast s
    exact callRank_lt_of_workLeft (by simp [decodesLeft, hc, hc', hr]) (by simp [hc, hc', Ctl.placesLeft])
      (by simpa [workLeft, hc, hc'] using hlt)

/-- The decoder belongs to one decode. -/
theorem RxEffect.decodesLeft_eq {p : RxPoint} (e : RxEffect s p u) (hc : s.ctl = .rx p) : decodesLeft u = decodesLeft s := by
  have hr : u.retry = s.retry := by rw [e.frame]
  rcases e.ctl hc with ⟨_, hu⟩ | ⟨-, hu⟩
  · simp only [decodesLeft, hc, hu, hr]
  · simp only [decodesLeft, hc, hu, hr]

@[simp] theorem btpWaitEdge_rxC (d : Nat) (s : State) : (btpWaitEdge d s).rxC = s.rxC := by
  obtain ⟨_, _, _, _, h⟩ := btpWaitEdge_frame d s
  rw [h]

/-- Inside `rxMiller` every step lowers the rank, but an edge that the wait for quiet discards (R123) and one with which a frame
goes on (R129). -/
theorem stepRx_callRank {p : RxPoint} (hc : s.ctl = .rx p) (e : stepRx p s = .next u) :
    callRank u < callRank s ∨ (callRank u = callRank s ∧ p ≠ .drain ∧ ∃ t, u.rxR = .edge t) := by
  have hd := (stepRx_effect e).decodesLeft_eq hc
  have hw (d : Nat) : (btpWaitEdge d s).ctl = .rx p := (btpWaitEdge_ctl d s).trans hc
  cases p with
  | drain =>
    cases e
    exact .inl (callRank_lt_of_placesLeft hd (by simp [hc, Ctl.placesLeft]))
  | quiet =>
    cases e
    cases hr : (btpWaitEdge s.params.tBit s).rxR with
    | edge t =>
      rw [rxAfterQuiet_of_edge hr] at hd ⊢
      exact .inr ⟨callRank_eq hd (btpWaitEdge_ctl _ s) (by simp only [workLeft, hc, hw]), nofun, t, hr⟩
    | quiet =>
      rw [rxAfterQuiet_of_quiet hr] at hd ⊢
      exact .inl (callRank_lt_of_placesLeft hd (by simp [hc, Ctl.placesLeft]))
  | start =>
    cases e
    cases hr : (btpWaitEdge s.params.tBit s).rxR with
    | edge t =>
      rw [rxAfterStart_of_edge hr] at hd ⊢
      exact .inl (callRank_lt_of_placesLeft hd (by simp [hc, rxStartEdge, Ctl.placesLeft]))
    | quiet =>
      rw [rxAfterStart_of_quiet hr] at hd ⊢
      rcases rxStartQuiet_cases (btpWaitEdge s.params.tBit s) with ⟨-, h⟩ | ⟨h0, h⟩
      · rw [h] at hd ⊢
        exact .inl (callRank_lt_of_placesLeft hd (by simp [hc, Ctl.placesLeft]))
      · rw [h] at hd ⊢
        rw [btpWaitEdge_rxC] at h0
        exact .inl (callRank_lt_of_workLeft hd (by simp [hc]) (by simp [workLeft, hc]; omega))
  | frame =>
    cases hr : (btpWaitEdge (th3 s.params) s).rxR with
    | edge t =>
      rw [stepRx, rxAfterFrame_of_edge hr] at e
      have hcu : u.ctl = s.ctl := (rxEdge_ctl_ps e).1.trans (btpWaitEdge_ctl _ s)
      have hru : u.rxR = .edge t := by
        rcases rxEdge_frame t (btpWaitEdge (th3 s.params) s) with ⟨_, _, _, h⟩ | h
        · cases h.symm.trans e
          exact hr
        · cases h.symm.trans e
      exact .inr ⟨callRank_eq hd hcu (by simp only [workLeft, hcu, hc]), nofun, t, hru⟩
    | quiet =>
      rw [stepRx, rxAfterFrame_of_quiet hr] at e
      cases e
      exact .inl (callRank_lt_of_placesLeft hd (by simp [hc, rxEndFrame, Ctl.placesLeft]))

/-- While every decode that returns has no frame, a step of a call that goes on lowers the rank, or keeps it and is a `waitEdge`
answered with an edge. -/
theorem step_callRank (e : step s = .next u) (hs : s.ctl ≠ .done) (hu : u.ctl ≠ .done)
    (h0 : s.ctl = .count → s.rxBytes = 0) :
    callRank u < callRank s ∨ (callRank u = callRank s ∧ ∃ p t, p ≠ RxPoint.drain ∧ s.ctl = .rx p ∧ u.rxR = .edge t) := by
  rcases step_cases e with ⟨hc, -⟩ | ⟨hc, e⟩ | ⟨p, hc, e⟩ | ⟨hc, rfl⟩ | ⟨hc, e⟩ | ⟨sym, second, hc, rfl⟩
  · exact absurd hc hs
  · exact .inl (stepCheck_callRank_lt hc e hu)
  · exact (stepRx_callRank hc e).imp_right fun ⟨heq, hp, t, ht⟩ => ⟨heq, p, t, hp, hc, ht⟩
  · exact .inl (stepCount_callRank_lt hc (h0 hc))
  · exact .inl (stepDispatch_callRank_lt hc e hu)
  · exact .inl (stepTx_callRank_lt hc hu)

/-! ## Descent with pauses -/

/-- A sequence in a well-founded order that falls at every step but its pauses, where it keeps its value, is at a pause from
some step on. -/
theorem exists_pause_forever {α : Type} [PartialOrder α] [WellFoundedLT α] {r : ℕ → α} {pause : ℕ → Prop}
    (h : ∀ k, r (k + 1) < r k ∨ (r (k + 1) = r k ∧ pause k)) : ∃ k, ∀ j, k ≤ j → pause j := by
  have hanti : Antitone r := antitone_nat_of_succ_le fun k => (h k).elim le_of_lt fun h => h.1.le
  obtain ⟨_, ⟨k, rfl⟩, hmin⟩ := wellFounded_lt.has_min (Set.range r) (Set.range_nonempty r)
  refine ⟨k, fun j hj => ((h j).resolve_left fun hlt => ?_).2⟩
  exact hmin _ ⟨j + 1, rfl⟩ (hlt.trans_le (hanti hj))

end Sys2Proof.Machine

open Sys2Proof Sys2Proof.Machine

/-- Settles O53, clause by clause of the invariant. -/
theorem resetMeetsTheInvariant : Obligations.ResetMeetsTheInvariant := inv_reset

/-- Settles O51: from the last frame on (A2) the rank falls at every step but an answered edge, so a call that never came to rest
would end in a run of edges without end (A1). -/
theorem serviceCallsReturnUnderTheEnvironmentAssumptions :
    Obligations.ServiceCallsReturnUnderTheEnvironmentAssumptions := by
  intro path hcall hedges ⟨n, hframes⟩
  by_contra hrest
  have hnever (k : Nat) : (path k).ctl ≠ .done := fun h => hrest ⟨k, h⟩
  have hrank (k : Nat) : callRank (path (n + k + 1)) < callRank (path (n + k)) ∨
      (callRank (path (n + k + 1)) = callRank (path (n + k)) ∧ EdgeAnswered path (n + k)) :=
    step_callRank (hcall _ (hnever _)) (hnever _) (hnever _) (hframes _ (Nat.le_add_right n k))
  obtain ⟨k, hpause⟩ := exists_pause_forever (r := fun k => callRank (path (n + k))) hrank
  obtain ⟨j, hj, hno⟩ := hedges (n + k)
  obtain ⟨i, rfl⟩ := Nat.exists_eq_add_of_le hj
  exact hno (Nat.add_assoc n k i ▸ hpause (k + i) (Nat.le_add_right k i))
end
